-- ==== Sys2Proof/Word.lean ====
section
/-! DEFINITION. The word types of BCB (spec/00_scope.md R5, R6, R8) and the one counting primitive of R9. -/

namespace Sys2Proof

/-- A Sample, the accumulator, a button code: `W` = 16 bits (R5). Bit 0 is the least significant (R8). -/
abbrev Word := BitVec 16

/-- An operation word of the trace interface: `OPW` = 32 bits (R6, R73). -/
abbrev OpWord := BitVec 32

/-- A glyph code 0..13 (R36). Codes 14 and 15 cannot be written down, as entry U7 of
spec/93_implementation_defined.md asks. -/
abbrev Glyph := Fin 14

/-- The blank glyph, code 13 (R36). -/
abbrev Glyph.blank : Glyph := 13

/-- `popcount(v)`: the number of 1 bits of `v` (R9). -/
def popcount {n : Nat} (v : BitVec n) : Nat := (List.range n).countP v.getLsbD

end Sys2Proof
end

