-- ==== Sys2Proof/Config.lean ====
section
/-! DEFINITION. The configuration record `Cfg` of spec/00_scope.md R7: every value the spec leaves OPEN, as a field;
and the free value a ring cell holds before its first write (spec/93_implementation_defined.md U6). The checks of R7
are in Sys2Proof/WellFormed.lean. -/

namespace Sys2Proof

/-- One mask-and-match test of R153: `(w & mask) = pattern`. -/
structure KindTest where
  mask : Word
  pattern : Word
deriving DecidableEq, Repr

/-- The configuration record of R7. Nothing in the spec gives a value of any field. -/
structure Cfg where
  /-- `HAS_DECODE`: the block has the decode-assist unit DEC (R150). -/
  hasDecode : Bool
  /-- `CLK_ACTIVE`: the level the clock line moves to at the edge that is captured (R94). -/
  clkActive : Bool
  /-- `LATCH_ACTIVE`: the level the latch line moves to at the edge that closes a word (R94). -/
  latchActive : Bool
  /-- `BTN_CODE[0..6]`: POWER, HEATING, FILTER, BUBBLES, UNITS, UP, DOWN in that order (R72). -/
  btnCode : Vector Word 7
  /-- `BUZZER_MASK`: the one bit ORed in before the echo test (R152). -/
  buzzerMask : Word
  /-- `KIND_MASK[DIGITp]`, `KIND_MATCH[DIGITp]` for p in 0..3 (R153). -/
  digitTest : Vector KindTest 4
  /-- `KIND_MASK[LED]`, `KIND_MATCH[LED]` (R153). -/
  ledTest : KindTest
  /-- `SEG_MASK`: the seven segment bits (R155). -/
  segMask : Word
  /-- `SEG_TABLE[0..13]`: SEGROM, one pattern per glyph code (R52). -/
  segTable : Vector Word 14
  /-- `LED_BIT[0..4]`: the bus bit of power, bubbles, heaterGreen, heaterRed, filter (R158). -/
  ledBit : Vector (Fin 16) 5
  /-- `BTN_PULSES`: the pulse count the excluded firmware passes to BTNW; no operation reads it (R130). -/
  btnPulses : Nat
  /-- `PIN_CLK`: opaque identifier, read by no rule (R180). -/
  pinClk : Nat
  /-- `PIN_LATCH`: opaque identifier, read by no rule (R180). -/
  pinLatch : Nat
  /-- `PIN_DIN`: opaque identifier, read by no rule (R180). -/
  pinDin : Nat
  /-- `PIN_DOUT`: opaque identifier, read by no rule (R180). -/
  pinDout : Nat
deriving DecidableEq, Repr

/-- FREE VALUE (U6, `any value`): what ring cell `i` holds before its first write. R22: "Reset value: unspecified for
every element". Assumption log 6. -/
opaque Config.ringPowerOn : Nat → Word

end Sys2Proof
end

