-- ==== Sys2Proof/Syntax.lean ====
section
/-! DEFINITION. The fourteen external operations of spec/30_encoding.md R74, one constructor per row of
spec/opcode_table.json. The operand types are exactly the encoded fields (R75), so every term is well-formed. The two
internal operations PUSH and SEQ_STEP have no operation word (R74); they are shared operations of Machine/Ops.lean. -/

namespace Sys2Proof

/-- An operation of BCB (R10, R74), operands in the order of R78. -/
inductive Instr where
  /-- CLK d (R90), producer: the clock-edge handler; `d` is the level of `din`. -/
  | clk (d : Bool)
  /-- LATCH (R92), producer: the latch-edge handler. -/
  | latch
  /-- POP (R113), consumer: take the oldest unread sample. -/
  | pop
  /-- BTNW code, n (R130), consumer: submit a ButtonRequest of `n` pulses. -/
  | btnw (code : Word) (n : BitVec 8)
  /-- STAT (R116), consumer: read the status word. -/
  | stat
  /-- INIT c, l (R180), consumer: bind the lines and enable the two handlers. -/
  | init (c l : Bool)
  /-- DISABLE (R182), consumer: stop both handlers. -/
  | disable
  /-- SAMPLE c, l, d (R94), producer: the edge-detector front end, at the present levels of the three input pins. -/
  | sample (c l d : Bool)
  /-- CLASSIFY w (R151), consumer: say what kind of word `w` is. -/
  | classify (w : Word)
  /-- SEGDEC p, w (R155), consumer: decode a segment word into digit slot `p`. -/
  | segdec (p : BitVec 2) (w : Word)
  /-- LEDDEC w (R159), consumer: debounce an LED-bank word. -/
  | leddec (w : Word)
  /-- DECODE w (R162), consumer: classify a word and route it. -/
  | decode (w : Word)
  /-- GETDIG (R164), consumer: read the digit slots. -/
  | getdig
  /-- GETLED (R165), consumer: read the published LED state. -/
  | getled
deriving DecidableEq, Repr

end Sys2Proof
end

