-- ==== Sys2Proof/WellFormed.lean ====
section
/-! DEFINITION. The constraints of spec/00_scope.md R7 on a configuration. "A configuration that fails a constraint is
refused by the model, not given a meaning" (R7, U8): the machine's state holds a `WfCfg`, which an ill-formed record
cannot become; `Cfg.accept` is the refusal, by name. Operations need no check of their own: the operand types of `Instr`
are the encoded fields (R75), and a reserved operation WORD is refused by the decoder (R76). -/

namespace Sys2Proof

/-- Why a configuration is refused: one name per constraint of R7. -/
inductive CfgFlaw where
  /-- `BUZZER_MASK` has not exactly one bit set. -/
  | buzzerMaskNotOneBit
  /-- A `KIND_MATCH[k]` has a bit outside `KIND_MASK[k]`. -/
  | kindMatchOutsideMask
  /-- `SEG_MASK` has not exactly 7 bits set. -/
  | segMaskNotSevenBits
  /-- A `SEG_TABLE[g]` has a bit outside `SEG_MASK`. -/
  | segTableOutsideMask
  /-- Two entries of `SEG_TABLE` are equal. -/
  | segTableDuplicate
  /-- Two entries of `LED_BIT` are equal. -/
  | ledBitDuplicate
  /-- `BTN_PULSES` is not in 1..255. -/
  | btnPulsesOutOfRange
deriving DecidableEq, Repr

/-- `KIND_MATCH & ~KIND_MASK = 0` (R7). -/
def KindTest.wf (t : KindTest) : Bool := t.pattern &&& ~~~t.mask == 0

/-- The first constraint of R7 that `c` fails, in the order of R7's table; `none` when it fails none. -/
def Cfg.flaw (c : Cfg) : Option CfgFlaw :=
  if popcount c.buzzerMask ≠ 1 then some .buzzerMaskNotOneBit
  else if !(c.digitTest.toList.all KindTest.wf && c.ledTest.wf) then some .kindMatchOutsideMask
  else if popcount c.segMask ≠ 7 then some .segMaskNotSevenBits
  else if !(c.segTable.toList.all fun e => e &&& ~~~c.segMask == 0) then some .segTableOutsideMask
  else if ¬ c.segTable.toList.Nodup then some .segTableDuplicate
  else if ¬ c.ledBit.toList.Nodup then some .ledBitDuplicate
  else if ¬ (1 ≤ c.btnPulses ∧ c.btnPulses ≤ 255) then some .btnPulsesOutOfRange
  else none

/-- `c` satisfies every constraint of R7. -/
def Cfg.wf (c : Cfg) : Bool := c.flaw.isNone

/-- Some record that R7 admits: the proof that one exists, and nothing else. No definition of the machine uses it and
none of its values is claimed of the hardware. -/
def Cfg.someAdmitted : Cfg where
  hasDecode := true
  clkActive := false
  latchActive := false
  btnCode := #v[0, 0, 0, 0, 0, 0, 0]
  buzzerMask := 1
  digitTest := #v[⟨0, 0⟩, ⟨0, 0⟩, ⟨0, 0⟩, ⟨0, 0⟩]
  ledTest := ⟨0, 0⟩
  segMask := 127
  segTable := #v[0, 1, 2, 3, 4, 5, 6, 7, 8, 9, 10, 11, 12, 13]
  ledBit := #v[0, 1, 2, 3, 4]
  btnPulses := 1
  pinClk := 0
  pinLatch := 0
  pinDin := 0
  pinDout := 0

/-- A configuration that R7 admits, with the proof. The field defaults serve only to show that the type is inhabited,
which Lean asks of the opaque constant below. -/
structure WfCfg where
  cfg : Cfg := Cfg.someAdmitted
  admitted : cfg.wf = true := by decide
deriving DecidableEq, Repr, Inhabited

/-- Take a configuration, or refuse it by the name of the constraint it fails (R7, U8). -/
def Cfg.accept (c : Cfg) : Except CfgFlaw WfCfg :=
  if h : c.wf = true then .ok ⟨c, h⟩ else .error (c.flaw.getD .buzzerMaskNotOneBit)

/-- FREE VALUE: the OPEN configuration of the hardware (R7: "The source gives none of these values"). Nothing is known of it
but that R7 admits it. Assumption log 4. -/
opaque Config.straps : WfCfg

/-- The configuration of the machine whose reset state is `State.reset`: `Config.straps`, with the optional unit DEC
present (HAS_DECODE true). DESIGN CHOICE, assumption log 5. -/
def Config.installed : WfCfg :=
  ⟨{ Config.straps.cfg with hasDecode := true }, Config.straps.admitted⟩

end Sys2Proof
end

