-- ==== Sys2Proof/Machine/Operands.lean ====
section
/-! DEFINITION. The operand forms of BCB: what an operation computes from its operands and the configuration alone. Pin levels
and the active edge (R94), digit positions (R75), ring indices (R51), the classifier's tests (R151 to R154), the segment
pattern and its glyph (R155, R157), the raw LED bits (R158). -/

namespace Sys2Proof.Machine

/-- Five bits as a bitset: `b0` is bit 0. -/
def bits5 (b4 b3 b2 b1 b0 : Bool) : BitVec 5 :=
  BitVec.ofBool b4 ++ BitVec.ofBool b3 ++ BitVec.ofBool b2 ++ BitVec.ofBool b1 ++ BitVec.ofBool b0

/-- A line that stood at `was` and stands at `now` shows its active edge: it changed, and it is at its active level
(R94, R191, R192). -/
def activeEdge (active was now : Bool) : Bool := was != now && now == active

/-- The slot that the 2-bit position `p` selects; "every encodable position is a valid slot index" (R75). -/
def slot (p : BitVec 2) : Fin 4 := ⟨p.toNat, p.isLt⟩

/-- The cell a cursor points at: its low six bits (R51: `wr[5:0]`, `rd[5:0]`). -/
def cellIndex (cursor : BitVec 7) : Nat := (cursor.extractLsb' 0 6).toNat

/-- What a captured word is (R71, R77). -/
inductive Kind where
  | unknown
  | echo
  | led
  | digit (p : BitVec 2)
deriving DecidableEq, Repr

/-- The result field `kind[2:0]` (R77). -/
def Kind.code (k : Kind) : BitVec 3 :=
  match k with
  | .unknown => 0
  | .echo => 1
  | .led => 2
  | .digit p => 1#1 ++ p

/-- Echo test (R152): with the buzzer bit ORed in, the word is one of the seven button codes. -/
def isEcho (c : Cfg) (w : Word) : Bool := c.btnCode.toList.any fun code => w ||| c.buzzerMask == code

/-- A kind test passes (R153). -/
def passes (t : KindTest) (w : Word) : Bool := w &&& t.mask == t.pattern

/-- The classifier (R151): echo first, then DIGIT0 to DIGIT3, then LED; a word that passes none is unknown (R154). -/
def classify (c : Cfg) (w : Word) : Kind :=
  if isEcho c w then .echo
  else if passes c.digitTest[0] w then .digit 0
  else if passes c.digitTest[1] w then .digit 1
  else if passes c.digitTest[2] w then .digit 2
  else if passes c.digitTest[3] w then .digit 3
  else if passes c.ledTest w then .led
  else .unknown

/-- The segment pattern of a word: complemented, then the seven segment bits kept (R155). -/
def segPattern (c : Cfg) (w : Word) : Word := ~~~w &&& c.segMask

/-- `RomRead(g)`: the cell of SEGROM with index `g` (R52). -/
def romRead (c : Cfg) (g : Glyph) : Word := c.segTable[g]

/-- `dec(pat)`: the glyph whose table entry is `pat`, or none (R157). -/
def decodeGlyph (c : Cfg) (pat : Word) : Option Glyph := (List.finRange 14).find? fun g => romRead c g == pat

/-- The DigitBuffer after SEGDEC for position `p`: slot `p` takes the glyph found; no other slot changes, and none does on a
miss (R155). -/
def newDigits (found : Option Glyph) (p : BitVec 2) (d : Vector Glyph 4) : Vector Glyph 4 :=
  match found with
  | some g => d.set (slot p) g
  | none => d

/-- Raw bit of LED `k`: 1 when the bus bit is 0 (R158). -/
def rawLed (c : Cfg) (w : Word) (k : Fin 5) : Bool := !w.getLsbD (c.ledBit[k]).val

/-- One LED of the two-read debounce (R159): from the raw read, the tentative and the published bit, the new tentative and
published bits. -/
def debounce (raw tent pub : Bool) : Bool × Bool :=
  if raw ≠ tent then (raw, pub)
  else if raw ≠ pub then (tent, raw)
  else (tent, pub)

end Sys2Proof.Machine
end

