-- ==== Sys2Proof/Decode.lean ====
section
/-! DEFINITION. The operation word of spec/30_encoding.md R73 to R76: its fields, a decoder total on every 32-bit word, the
encoder, and the rows of R74 as mask and match (a second, independent account of which words are not reserved). An
operation word is one 32-bit value: BCB has no byte order (spec/20_memory.md R55). -/

namespace Sys2Proof

/-- Why an operation word is reserved (R76), in the order R76 lists the cases; the verdict is `reserved` in all four. -/
inductive Reserved where
  /-- `op = 0x0`. -/
  | opZero
  /-- `op = 0xF`. -/
  | opFifteen
  /-- Bits 27:24 are not 0. -/
  | rsvBits
  /-- A bit that the row of R74 requires to be 0 is 1. -/
  | operandBits
deriving DecidableEq, Repr

/-- Bits 31:28, the operation code (R73). -/
def OpWord.op (w : OpWord) : BitVec 4 := w.extractLsb' 28 4
/-- Bits 27:24, reserved (R73). -/
def OpWord.rsv (w : OpWord) : BitVec 4 := w.extractLsb' 24 4
/-- Bits 23:16, the 8-bit operand (R73). -/
def OpWord.n (w : OpWord) : BitVec 8 := w.extractLsb' 16 8
/-- Bits 15:0, the 16-bit operand (R73). -/
def OpWord.imm (w : OpWord) : Word := w.extractLsb' 0 16
/-- An operation word from its fields (R73). -/
def OpWord.ofFields (op : BitVec 4) (n : BitVec 8) (imm : Word) : OpWord := op ++ 0#4 ++ n ++ imm

/-- The operation `i` if the reserved field is 0 and the operand bits the row requires to be 0 are 0 (`zero`); the verdict
`reserved` otherwise (R76). -/
def rowOrReserved (rsv : BitVec 4) (zero : Bool) (i : Instr) : Except Reserved Instr :=
  if rsv ≠ 0 then .error .rsvBits
  else if zero then .ok i
  else .error .operandBits

/-- The row of R74 with operation code `op`, its operands taken as they stand (R75). -/
def rowOf (op : Nat) (rsv : BitVec 4) (n : BitVec 8) (imm : Word) : Except Reserved Instr :=
  match op with
  | 0x0 => .error .opZero
  | 0x1 => rowOrReserved rsv (n == 0 && imm >>> 1 == 0) (.clk (imm.getLsbD 0))
  | 0x2 => rowOrReserved rsv (n == 0 && imm == 0) .latch
  | 0x3 => rowOrReserved rsv (n == 0 && imm == 0) .pop
  | 0x4 => rowOrReserved rsv true (.btnw imm n)
  | 0x5 => rowOrReserved rsv (n == 0 && imm == 0) .stat
  | 0x6 => rowOrReserved rsv (n == 0 && imm >>> 2 == 0) (.init (imm.getLsbD 1) (imm.getLsbD 0))
  | 0x7 => rowOrReserved rsv (n == 0 && imm == 0) .disable
  | 0x8 => rowOrReserved rsv (n == 0 && imm >>> 3 == 0) (.sample (imm.getLsbD 2) (imm.getLsbD 1) (imm.getLsbD 0))
  | 0x9 => rowOrReserved rsv (n == 0) (.classify imm)
  | 0xA => rowOrReserved rsv (n >>> 2 == 0) (.segdec (n.setWidth 2) imm)
  | 0xB => rowOrReserved rsv (n == 0) (.leddec imm)
  | 0xC => rowOrReserved rsv (n == 0) (.decode imm)
  | 0xD => rowOrReserved rsv (n == 0 && imm == 0) .getdig
  | 0xE => rowOrReserved rsv (n == 0 && imm == 0) .getled
  | _ => .error .opFifteen

/-- The decoder of operation words (R74 to R76): total; one row with its operands, or `reserved` with the reason. -/
def decode (w : OpWord) : Except Reserved Instr :=
  rowOf (OpWord.op w).toNat (OpWord.rsv w) (OpWord.n w) (OpWord.imm w)

/-- Pin levels in the low bits of `imm` (R73): `b2` in bit 2, `b1` in bit 1, `b0` in bit 0. -/
def levels (b2 b1 b0 : Bool) : Word := (0#13 ++ BitVec.ofBool b2 ++ BitVec.ofBool b1 ++ BitVec.ofBool b0 : BitVec 16)

/-- The operation word of an operation (R74). -/
def encode (i : Instr) : OpWord :=
  match i with
  | .clk d => OpWord.ofFields 0x1 0 (levels false false d)
  | .latch => OpWord.ofFields 0x2 0 0
  | .pop => OpWord.ofFields 0x3 0 0
  | .btnw code n => OpWord.ofFields 0x4 n code
  | .stat => OpWord.ofFields 0x5 0 0
  | .init c l => OpWord.ofFields 0x6 0 (levels false c l)
  | .disable => OpWord.ofFields 0x7 0 0
  | .sample c l d => OpWord.ofFields 0x8 0 (levels c l d)
  | .classify w => OpWord.ofFields 0x9 0 w
  | .segdec p w => OpWord.ofFields 0xA (p.setWidth 8) w
  | .leddec w => OpWord.ofFields 0xB 0 w
  | .decode w => OpWord.ofFields 0xC 0 w
  | .getdig => OpWord.ofFields 0xD 0 0
  | .getled => OpWord.ofFields 0xE 0 0

/-- A row of R74 as spec/opcode_table.json gives it: a word belongs to the row when its bits under `mask` are `pattern`. -/
structure OpRow where
  mnemonic : String
  pattern : OpWord
  mask : OpWord
deriving DecidableEq, Repr

/-- The word is one of the row's. -/
def OpRow.holds (r : OpRow) (w : OpWord) : Bool := w &&& r.mask == r.pattern

/-- The fourteen rows (R74, spec/opcode_table.json). -/
def opTable : List OpRow :=
  [⟨"CLK", 0x10000000, 0xFFFFFFFE⟩, ⟨"LATCH", 0x20000000, 0xFFFFFFFF⟩, ⟨"POP", 0x30000000, 0xFFFFFFFF⟩,
   ⟨"BTNW", 0x40000000, 0xFF000000⟩, ⟨"STAT", 0x50000000, 0xFFFFFFFF⟩, ⟨"INIT", 0x60000000, 0xFFFFFFFC⟩,
   ⟨"DISABLE", 0x70000000, 0xFFFFFFFF⟩, ⟨"SAMPLE", 0x80000000, 0xFFFFFFF8⟩, ⟨"CLASSIFY", 0x90000000, 0xFFFF0000⟩,
   ⟨"SEGDEC", 0xA0000000, 0xFFFC0000⟩, ⟨"LEDDEC", 0xB0000000, 0xFFFF0000⟩, ⟨"DECODE", 0xC0000000, 0xFFFF0000⟩,
   ⟨"GETDIG", 0xD0000000, 0xFFFFFFFF⟩, ⟨"GETLED", 0xE0000000, 0xFFFFFFFF⟩]

/-- The mnemonic of an operation (R74, R78). -/
def Instr.mnemonic (i : Instr) : String :=
  match i with
  | .clk _ => "CLK"
  | .latch => "LATCH"
  | .pop => "POP"
  | .btnw _ _ => "BTNW"
  | .stat => "STAT"
  | .init _ _ => "INIT"
  | .disable => "DISABLE"
  | .sample _ _ _ => "SAMPLE"
  | .classify _ => "CLASSIFY"
  | .segdec _ _ => "SEGDEC"
  | .leddec _ => "LEDDEC"
  | .decode _ => "DECODE"
  | .getdig => "GETDIG"
  | .getled => "GETLED"

/-- The operation word whose bits, numbered as spec/opcode_table.json numbers them, are the low `nbits` bits of `w`; every
bit above is 0. -/
def tableWord (nbits w : Nat) : OpWord := BitVec.ofNat 32 (w % 2 ^ nbits)

/-- The operation the decoder reads from an operation word given as a number of `nbits` bits; `none` where it is reserved. -/
def decodeTableWord (nbits w : Nat) : Option Instr :=
  match decode (tableWord nbits w) with
  | .ok i => some i
  | .error _ => none

end Sys2Proof
end

