-- ==== Sys2Proof/Machine/State.lean ====
section
/-! DEFINITION. The state of BCB (spec/10_state.md), its reset value (R42), the answer an operation returns (R11), and the
reasons an operation is given no meaning. INVENTORY.md lists every field with its rule. -/

namespace Sys2Proof.Machine

/-- RING, `mem[0..63]` (R22, R51): pairs (index, 16-bit cell) of the cells written since reset, indices strictly rising. The
addressable unit is the whole 16-bit cell and no value is split into bytes (R51, R55): assumption log 7. -/
abbrev Memory := List (Nat × Word)

/-- The tuple an operation returns to its caller (R11). -/
inductive Answer where
  /-- No operation has returned a tuple yet. -/
  | nothing
  /-- POP -> (valid, data) (R113). -/
  | pop (valid : Bool) (data : Word)
  /-- STAT -> (status) (R116). -/
  | stat (status : BitVec 13)
  /-- BTNW -> (accepted) (R130). -/
  | btnw (accepted : Bool)
  /-- CLASSIFY -> (kind) (R151). -/
  | classify (kind : BitVec 3)
  /-- SEGDEC -> (hit, frame_done) (R155). -/
  | segdec (hit frameDone : Bool)
  /-- LEDDEC -> (ev) (R159). -/
  | leddec (ev : BitVec 5)
  /-- DECODE -> (kind, hit, frame_done, ev) (R162). -/
  | decode (kind : BitVec 3) (hit frameDone : Bool) (ev : BitVec 5)
  /-- GETDIG -> (digits) (R164). -/
  | getdig (digits : Word)
  /-- GETLED -> (flags, pub) (R165). -/
  | getled (flags pub : BitVec 5)
deriving DecidableEq, Repr

/-- The state of BCB. The last three fields are the model's own, not the spec's (assumption logs 1, 3, 4). -/
structure State where
  /-- Shift accumulator (R20). -/
  acc : Word
  /-- Edge counter, saturating at 31 (R21). -/
  cnt : BitVec 5
  /-- Ring storage (R22). -/
  mem : Memory
  /-- Write cursor: 6 index bits and a wrap bit (R23). -/
  wr : BitVec 7
  /-- Read cursor: 6 index bits and a wrap bit (R24). -/
  rd : BitVec 7
  /-- Code of the current ButtonRequest (R25). -/
  btnCode : Word
  /-- Remaining-pulse counter (R26). -/
  btnRem : BitVec 8
  /-- The data-out line is driven low (R27). -/
  outLow : Bool
  /-- INIT has been performed (R32). -/
  inited : Bool
  /-- The two interrupt handlers are installed and enabled (R32). -/
  irqEn : Bool
  /-- Level of the clock line at the previous SAMPLE or at INIT (R39). -/
  clkQ : Bool
  /-- Level of the latch line at the previous SAMPLE or at INIT (R39). -/
  latchQ : Bool
  /-- DigitBuffer, four glyph slots (R35, R36). -/
  digit : Vector Glyph 4
  /-- Published LED bitset (R37). -/
  ledPub : BitVec 5
  /-- Tentative LED bitset (R37). -/
  ledTent : BitVec 5
  /-- The configuration (R7): fixed, written by no operation. Assumption log 4. -/
  cfg : WfCfg
  /-- The operations the environment and the host have issued and BCB has not performed, in the order of the execution
  (R60). Assumption log 1. -/
  stream : List OpWord
  /-- The last tuple an operation returned (R11). Assumption log 3. -/
  answer : Answer
deriving DecidableEq, Repr

/-- Why the machine stops with a fault: never. "No operation of this spec faults" (R200), so the type has no
constructor. -/
inductive Fault where
deriving DecidableEq, Repr

/-- Why an operation is given no meaning (R9 `refuse`). Each is safe: the model stops, and nothing is claimed of what the
hardware would do. -/
inductive Refusal where
  /-- An instruction that has no meaning yet: raised by a refused arm of `exec` only; none is left. Safe. -/
  | notModelled (mnemonic : String)
  /-- The operation word is reserved: raised by `step` (R76, U5). Safe. -/
  | reservedWord (why : Reserved)
  /-- A second INIT: raised by INIT when `inited = 1` (R180, U3). Safe. -/
  | secondInit
  /-- A DEC operation in a block without DEC: raised by the six operations of spec/43_decode_assist.md when `HAS_DECODE` is
  false (R150, U4). Safe. -/
  | noDecodeUnit
deriving DecidableEq, Repr

/-- The state after power-up of a block with configuration `c` (R42, R220). -/
def State.powerUp (c : WfCfg) : State where
  acc := 0x0000
  cnt := 0
  mem := []
  wr := 0
  rd := 0
  btnCode := 0x0000
  btnRem := 0
  outLow := false
  inited := false
  irqEn := false
  clkQ := false
  latchQ := false
  digit := #v[Glyph.blank, Glyph.blank, Glyph.blank, Glyph.blank]
  ledPub := 0b00000
  ledTent := 0b00000
  cfg := c
  stream := []
  answer := .nothing

/-- The machine right after reset (R42, R221), its configuration the installed one. -/
def State.reset : State := State.powerUp Config.installed

end Sys2Proof.Machine
end

