-- ==== Sys2Proof/Machine/Flags.lean ====
section
/-! DEFINITION. Every status value derived from state (spec/10_state.md R28, R30, R31, R38; spec/41_ring_buffer.md R116;
spec/43_decode_assist.md R160). None of them is state. -/

namespace Sys2Proof.Machine

/-- `fill = (wr - rd) mod 128`, the number of unread samples (R28). -/
def fill (s : State) : Nat := (s.wr - s.rd).toNat

/-- `empty` (R28). -/
def isEmpty (s : State) : Bool := fill s == 0

/-- `full` (R28). -/
def isFull (s : State) : Bool := fill s == 64

/-- A ButtonRequest is active (R26). -/
def active (s : State) : Bool := s.btnRem != 0

/-- `busy`: the ButtonRequest has not fully completed its pulse cycle (R30). -/
def busy (s : State) : Bool := s.btnRem != 0 || s.outLow

/-- The level BCB presents on the data-out pin: low, or released, which the spec treats as the single value 1 (R31). -/
def dout (s : State) : Bool := !s.outLow

/-- The status word STAT returns (R116): inited, irq_en, out_low, busy, full, empty, fill[6:0] from bit 12 down. -/
def statusWord (s : State) : BitVec 13 :=
  BitVec.ofBool s.inited ++ BitVec.ofBool s.irqEn ++ BitVec.ofBool s.outLow ++ BitVec.ofBool (busy s) ++
    BitVec.ofBool (isFull s) ++ BitVec.ofBool (isEmpty s) ++ (s.wr - s.rd)

/-- `heatingEnabled`: heaterRed OR heaterGreen (R38). -/
def heatingEnabled (pub : BitVec 5) : Bool := pub.getLsbD 3 || pub.getLsbD 2

/-- `flags[4:0]`: bubbles, filter, heating, heatingEnabled, power from bit 4 down (R38). -/
def ledFlags (pub : BitVec 5) : BitVec 5 :=
  bits5 (pub.getLsbD 1) (pub.getLsbD 4) (pub.getLsbD 3) (heatingEnabled pub) (pub.getLsbD 0)

/-- The event bits of a change of the published bitset: the flags that differ (R160). -/
def eventBits (before after : BitVec 5) : BitVec 5 := ledFlags before ^^^ ledFlags after

/-- The five debounced tentative bits for a word (R159). -/
def newTent (c : Cfg) (w : Word) (tent pub : BitVec 5) : BitVec 5 :=
  let d := fun k : Fin 5 => (debounce (rawLed c w k) (tent.getLsbD k) (pub.getLsbD k)).1
  bits5 (d 4) (d 3) (d 2) (d 1) (d 0)

/-- The five debounced published bits for a word (R159). -/
def newPub (c : Cfg) (w : Word) (tent pub : BitVec 5) : BitVec 5 :=
  let d := fun k : Fin 5 => (debounce (rawLed c w k) (tent.getLsbD k) (pub.getLsbD k)).2
  bits5 (d 4) (d 3) (d 2) (d 1) (d 0)

/-- A glyph code as the four bits of a slot (R35, R36). -/
def glyphBits (g : Glyph) : BitVec 4 := BitVec.ofNat 4 g.val

/-- The digits word GETDIG returns: slot 0 in bits 15:12, slot 3 in bits 3:0 (R164). -/
def digitsWord (d : Vector Glyph 4) : Word :=
  (glyphBits d[0] ++ glyphBits d[1] ++ glyphBits d[2] ++ glyphBits d[3] : BitVec 16)

end Sys2Proof.Machine
end

