-- ==== Sys2Proof/Machine/Ops.lean ====
section
/-! DEFINITION. The named operations over the state: one writer per register group, RING and SEGROM accesses
(spec/20_memory.md), the interrupt entry (spec/60_exceptions.md R190 to R206), and the steps that the operations share:
the two handlers, PUSH, SEQ_STEP, the segment decode, the LED debounce, and taking the next operation of the execution. -/

namespace Sys2Proof.Machine

/-! ### Writers -/

/-- Write the accumulator and the edge counter (R20, R21). -/
def State.setCapture (s : State) (acc : Word) (cnt : BitVec 5) : State := { s with acc := acc, cnt := cnt }
/-- Write the ring storage (R22). -/
def State.setMem (s : State) (m : Memory) : State := { s with mem := m }
/-- Write the write cursor (R23). -/
def State.setWr (s : State) (c : BitVec 7) : State := { s with wr := c }
/-- Write the read cursor (R24). -/
def State.setRd (s : State) (c : BitVec 7) : State := { s with rd := c }
/-- Write the ButtonRequest (R25, R26). -/
def State.setRequest (s : State) (code : Word) (n : BitVec 8) : State := { s with btnCode := code, btnRem := n }
/-- Write the data-out line and the remaining-pulse counter (R26, R27). -/
def State.setLine (s : State) (low : Bool) (n : BitVec 8) : State := { s with outLow := low, btnRem := n }
/-- Write the lifecycle register (R32). -/
def State.setLifecycle (s : State) (inited irqEn : Bool) : State := { s with inited := inited, irqEn := irqEn }
/-- Write the edge detectors (R39). -/
def State.setLevels (s : State) (c l : Bool) : State := { s with clkQ := c, latchQ := l }
/-- Write the DigitBuffer (R35). -/
def State.setDigits (s : State) (d : Vector Glyph 4) : State := { s with digit := d }
/-- Write the two LED bitsets (R37). -/
def State.setLeds (s : State) (tent pub : BitVec 5) : State := { s with ledTent := tent, ledPub := pub }
/-- Return a tuple to the caller (R11). -/
def State.reply (s : State) (a : Answer) : State := { s with answer := a }
/-- Replace the operations still to be performed (R60). -/
def State.setStream (s : State) (l : List OpWord) : State := { s with stream := l }

/-! ### RING (R51) -/

/-- The value of cell `i` if it was written since reset. -/
def Memory.read (m : Memory) (i : Nat) : Option Word :=
  match m with
  | [] => none
  | (j, v) :: rest => if i = j then some v else Memory.read rest i

/-- `mem[i] <- v`, the list kept strictly rising. -/
def Memory.write (m : Memory) (i : Nat) (v : Word) : Memory :=
  match m with
  | [] => [(i, v)]
  | (j, u) :: rest =>
    if i < j then (i, v) :: (j, u) :: rest
    else if i = j then (i, v) :: rest
    else (j, u) :: Memory.write rest i v

/-- The canonical form: indices strictly rising, every index a cell of RING (R51). An unlisted cell reads as `none`, so no
entry equals what an unlisted cell reads as. -/
def Memory.wf (m : Memory) : Bool :=
  decide ((m.map Prod.fst).Pairwise (· < ·)) && m.all fun cell => decide (cell.1 < 64)

/-- `RingRead(i)` (R51); the unspecified reset content of a cell not written since reset is a free value (U6). -/
def ringRead (s : State) (i : Nat) : Word := (s.mem.read i).getD (Config.ringPowerOn i)

/-- `RingWrite(i, v)` (R51). -/
def ringWrite (s : State) (i : Nat) (v : Word) : State := s.setMem (s.mem.write i v)

/-! ### Arithmetic of R43 -/

/-- Shift-in: the old bit 15 is lost, `d` goes to bit 0. -/
def shiftIn (a : Word) (d : Bool) : Word := (a.extractLsb' 0 15 ++ BitVec.ofBool d : BitVec 16)
/-- Saturating increment: `min(cnt + 1, 31)`. -/
def satIncr (c : BitVec 5) : BitVec 5 := BitVec.ofNat 5 (min (c.toNat + 1) 31)
/-- Modular increment of a cursor: `(x + 1) mod 128`. -/
def nextCursor (c : BitVec 7) : BitVec 7 := c + 1

/-! ### Ring buffer -/

/-- PUSH(v) (R110): drop the oldest if full, write the cell, then advance the write cursor. -/
def push (v : Word) (s : State) : State :=
  let s1 := if fill s = 64 then s.setRd (nextCursor s.rd) else s
  let s2 := ringWrite s1 (cellIndex s1.wr) v
  s2.setWr (nextCursor s2.wr)

/-- The body of POP (R113): the answer, and the state with the read cursor advanced when a sample is returned. -/
def takeOldest (s : State) : State :=
  if fill s = 0 then s.reply (.pop false 0x0000)
  else (s.setRd (nextCursor s.rd)).reply (.pop true (ringRead s (cellIndex s.rd)))

/-! ### Sequencer -/

/-- SEQ_STEP(a) (R133): release first; else drive low on a match of an active request; else nothing. -/
def seqStep (a : Word) (s : State) : State :=
  if s.outLow then s.setLine false s.btnRem
  else if s.btnRem ≠ 0 ∧ a = s.btnCode then s.setLine true (s.btnRem - 1)
  else s

/-- The body of BTNW (R130): refused while busy, else code first and count last (R62). -/
def submit (code : Word) (n : BitVec 8) (s : State) : State :=
  if busy s then s.reply (.btnw false)
  else (s.setRequest code n).reply (.btnw true)

/-! ### Interrupts

BCB takes no exception (R200). An edge with `irq_en = 1` runs its handler as the next step: nothing is saved, no mode is
switched (R204); the handler runs to completion and nothing is restored (R205). An edge with `irq_en = 0` is lost (R91,
R196). -/

/-- Take an interrupt: run `handler` if the two handlers are enabled (R91, R193, R194, R204). -/
def takeInterrupt (handler : State → State) (s : State) : State := if s.irqEn then handler s else s

/-- Return from a handler: nothing is restored and interrupts stay enabled (R205). -/
def returnFromHandler (s : State) : State := s

/-- The clock-edge handler (R90): one bit in, one edge counted. -/
def clkHandler (d : Bool) (s : State) : State := returnFromHandler (s.setCapture (shiftIn s.acc d) (satIncr s.cnt))

/-- The latch-edge handler (R92): push a word of exactly 16 edges, advance the sequencer always, clear `acc` and `cnt`. The
three steps read `acc` and `cnt` from before the operation. -/
def latchHandler (s : State) : State :=
  let pushed := if s.cnt = 16 then push s.acc s else s
  returnFromHandler ((seqStep s.acc pushed).setCapture 0x0000 0)

/-- The edge-detector front end (R94) of an enabled block: clock edge first, latch edge second, then the levels are kept. Both
edges are computed from the levels of before. -/
def edgeDetect (c l d : Bool) (s : State) : State :=
  let clkEdge := activeEdge s.cfg.cfg.clkActive s.clkQ c
  let latchEdge := activeEdge s.cfg.cfg.latchActive s.latchQ l
  let s1 := if clkEdge then takeInterrupt (clkHandler d) s else s
  let s2 := if latchEdge then takeInterrupt latchHandler s1 else s1
  s2.setLevels c l

/-! ### Decode assist -/

/-- Run a DEC operation where the block has DEC; refuse it where it has not (R150, U4). -/
def withDecode (s : State) (next : State) : Host.Outcome State Fault Refusal :=
  if s.cfg.cfg.hasDecode then .next next else .refused .noDecodeUnit

/-- The glyph SEGDEC finds for a word (R155, R157). -/
def segGlyph (s : State) (w : Word) : Option Glyph := decodeGlyph s.cfg.cfg (segPattern s.cfg.cfg w)

/-- The state part of SEGDEC (R155): slot `p` takes the glyph on a hit and keeps its own on a miss. -/
def segDecode (p : BitVec 2) (w : Word) (s : State) : State := s.setDigits (newDigits (segGlyph s w) p s.digit)

/-- `frame_done`: every word of position 3 (R156). -/
def frameDone (p : BitVec 2) : Bool := p == 3

/-- The state part of LEDDEC (R159). -/
def ledDebounce (w : Word) (s : State) : State :=
  s.setLeds (newTent s.cfg.cfg w s.ledTent s.ledPub) (newPub s.cfg.cfg w s.ledTent s.ledPub)

/-- The event bits LEDDEC returns for a word (R160). -/
def ledEvents (w : Word) (s : State) : BitVec 5 :=
  eventBits s.ledPub (newPub s.cfg.cfg w s.ledTent s.ledPub)

/-- The body of DECODE (R162): discard, or route to the segment decode or the LED debounce. -/
def route (w : Word) (s : State) : State :=
  match classify s.cfg.cfg w with
  | .digit p => (segDecode p w s).reply (.decode (Kind.digit p).code (segGlyph s w).isSome (frameDone p) 0)
  | .led => (ledDebounce w s).reply (.decode Kind.led.code false false (ledEvents w s))
  | .echo => s.reply (.decode Kind.echo.code false false 0)
  | .unknown => s.reply (.decode Kind.unknown.code false false 0)

/-! ### The execution -/

/-- Take the next operation of the execution (R60): its word, and the state without it. `none` when neither agent has issued
one. Assumption log 1. -/
def fetch (s : State) : Option (OpWord × State) :=
  match s.stream with
  | [] => none
  | w :: rest => some (w, s.setStream rest)

/-- An agent issues an operation word: it is the next to be performed. -/
def issueNext (s : State) (w : OpWord) : State := s.setStream (w :: s.stream)

end Sys2Proof.Machine
end

