-- ==== Sys2Proof/Machine/Capture.lean ====
section
/-! DEFINITION. The capture operations of spec/40_capture.md: CLK, LATCH, SAMPLE. -/

namespace Sys2Proof.Machine

/-- CLK d (R90, R91). -/
def execClk (d : Bool) (s : State) : Host.Outcome State Fault Refusal := .next (takeInterrupt (clkHandler d) s)

/-- LATCH (R92, R91). -/
def execLatch (s : State) : Host.Outcome State Fault Refusal := .next (takeInterrupt latchHandler s)

/-- SAMPLE c, l, d (R94): no state changes at all while `irq_en = 0`. -/
def execSample (c l d : Bool) (s : State) : Host.Outcome State Fault Refusal :=
  .next (if s.irqEn then edgeDetect c l d s else s)

end Sys2Proof.Machine
end

