-- ==== Sys2Proof/Machine/DecodeAssist.lean ====
section
/-! DEFINITION. The six operations of the optional unit DEC, spec/43_decode_assist.md: CLASSIFY, SEGDEC, LEDDEC, DECODE,
GETDIG, GETLED. -/

namespace Sys2Proof.Machine

/-- CLASSIFY w (R151): a pure function of `w` and the configuration. -/
def execClassify (w : Word) (s : State) : Host.Outcome State Fault Refusal :=
  withDecode s (s.reply (.classify (classify s.cfg.cfg w).code))

/-- SEGDEC p, w (R155, R156). -/
def execSegdec (p : BitVec 2) (w : Word) (s : State) : Host.Outcome State Fault Refusal :=
  withDecode s ((segDecode p w s).reply (.segdec (segGlyph s w).isSome (frameDone p)))

/-- LEDDEC w (R159, R160). -/
def execLeddec (w : Word) (s : State) : Host.Outcome State Fault Refusal :=
  withDecode s ((ledDebounce w s).reply (.leddec (ledEvents w s)))

/-- DECODE w (R162). -/
def execDecode (w : Word) (s : State) : Host.Outcome State Fault Refusal := withDecode s (route w s)

/-- GETDIG (R164). -/
def execGetdig (s : State) : Host.Outcome State Fault Refusal := withDecode s (s.reply (.getdig (digitsWord s.digit)))

/-- GETLED (R165). -/
def execGetled (s : State) : Host.Outcome State Fault Refusal :=
  withDecode s (s.reply (.getled (ledFlags s.ledPub) s.ledPub))

end Sys2Proof.Machine
end

