-- ==== Sys2Proof/Machine/Lifecycle.lean ====
section
/-! DEFINITION. The lifecycle operations of spec/44_lifecycle.md: INIT, DISABLE. -/

namespace Sys2Proof.Machine

/-- INIT c, l (R180): once; a second INIT is refused (U3). -/
def execInit (c l : Bool) (s : State) : Host.Outcome State Fault Refusal :=
  if s.inited then .refused .secondInit
  else .next (((s.setCapture 0x0000 0).setLevels c l).setLifecycle true true)

/-- DISABLE (R182): clears `irq_en` and nothing else. -/
def execDisable (s : State) : Host.Outcome State Fault Refusal := .next (s.setLifecycle s.inited false)

end Sys2Proof.Machine
end

