-- ==== Sys2Proof/Machine/RingBuffer.lean ====
section
/-! DEFINITION. The ring-buffer operations of spec/41_ring_buffer.md that have an operation word: POP, STAT. -/

namespace Sys2Proof.Machine

/-- POP (R113). -/
def execPop (s : State) : Host.Outcome State Fault Refusal := .next (takeOldest s)

/-- STAT (R116). -/
def execStat (s : State) : Host.Outcome State Fault Refusal := .next (s.reply (.stat (statusWord s)))

end Sys2Proof.Machine
end

