-- ==== Sys2Proof/Machine/Sequencer.lean ====
section
/-! DEFINITION. The output toggle sequencer's operation of spec/42_button_sequencer.md that has an operation word: BTNW. -/

namespace Sys2Proof.Machine

/-- BTNW code, n (R130). -/
def execBtnw (code : Word) (n : BitVec 8) (s : State) : Host.Outcome State Fault Refusal := .next (submit code n s)

end Sys2Proof.Machine
end

