-- ==== Sys2Proof/Machine/Dispatch.lean ====
section
/-! DEFINITION. One arm per operation of spec/30_encoding.md R74. -/

namespace Sys2Proof.Machine

/-- Perform one operation, atomically (R10, R60). -/
def exec (i : Instr) (s : State) : Host.Outcome State Fault Refusal :=
  match i with
  | .clk d => Sys2Proof.Machine.execClk d s
  | .latch => Sys2Proof.Machine.execLatch s
  | .pop => Sys2Proof.Machine.execPop s
  | .btnw code n => Sys2Proof.Machine.execBtnw code n s
  | .stat => Sys2Proof.Machine.execStat s
  | .init c l => Sys2Proof.Machine.execInit c l s
  | .disable => Sys2Proof.Machine.execDisable s
  | .sample c l d => Sys2Proof.Machine.execSample c l d s
  | .classify w => Sys2Proof.Machine.execClassify w s
  | .segdec p w => Sys2Proof.Machine.execSegdec p w s
  | .leddec w => Sys2Proof.Machine.execLeddec w s
  | .decode w => Sys2Proof.Machine.execDecode w s
  | .getdig => Sys2Proof.Machine.execGetdig s
  | .getled => Sys2Proof.Machine.execGetled s

end Sys2Proof.Machine
end

