-- ==== Sys2Proof/Machine/Step.lean ====
section
/-! DEFINITION. One step of the machine: the next operation of the execution (spec/20_memory.md R60) is taken from the stream the
environment and the host fill, decoded and performed. -/

namespace Sys2Proof.Machine

/-- One step. With no operation issued BCB waits and nothing changes (assumption log 2); a reserved word is refused (R76). -/
def step (s : State) : Host.Outcome State Fault Refusal :=
  match fetch s with
  | none => .next s
  | some (w, s') =>
    match decode w with
    | .error why => .refused (.reservedWord why)
    | .ok i => exec i s'

/-- `s` with the operation word of `nbits` bits `w` issued as the next operation of the execution. -/
def State.withFetchWord (s : State) (nbits w : Nat) : State := issueNext s (tableWord nbits w)

end Sys2Proof.Machine
end

