-- ==== Sys2Proof/Machine/Pseudo.lean ====
section
/-! DEFINITION. Sequences of operations: performing a list of them in order (spec/20_memory.md R60), and the five
pseudo-operations of spec/30_encoding.md R79. -/

namespace Sys2Proof.Machine

/-- Go on with the next state, or stop where the operation before was refused. -/
def andThen (o : Host.Outcome State Fault Refusal) (k : State → Host.Outcome State Fault Refusal) :
    Host.Outcome State Fault Refusal :=
  match o with
  | .next s => k s
  | .fault f => .fault f
  | .refused r => .refused r

/-- Perform operations in order, each atomic, each seeing the writes of all before it (R60). -/
def performAll (ops : List Instr) (s : State) : Host.Outcome State Fault Refusal :=
  match ops with
  | [] => .next s
  | i :: rest => andThen (exec i s) (performAll rest)

/-- A fence, as R63 speaks of one: an operation that changes no state and returns no tuple wherever it completes, so that all it
could do is to stand between the operations before it and those after it. The tuple an operation returns is held in State
(assumption log 3), so STAT, CLASSIFY, GETDIG and GETLED, which change no state of the spec's (R58), are no fences for what they
return. "BCB has none and needs none": no operation is one, and `performAll` gives every operation the state that holds all writes
of the operations before it (R60). -/
def isFence (i : Instr) : Prop := ∀ s t : State, exec i s = .next t → t = s

/-- CLK once per level of the list, in order. -/
def clkOps (levels : List Bool) : List Instr := levels.map Instr.clk

/-- The `k` levels FRAMEN carries: bit `k - 1` of `v` first, bit 0 last; positions above 15 carry 0 (R79). -/
def frameLevels (k : Nat) (v : Word) : List Bool := (List.range k).map fun j => v.getLsbD (k - 1 - j)

/-- `FRAMEN k, v`: `k` operations CLK, then LATCH (R79). -/
def framenOps (k : Nat) (v : Word) : List Instr := clkOps (frameLevels k v) ++ [.latch]

/-- `FRAME v`: sixteen CLK, most significant bit first, then LATCH (R79). -/
def frameOps (v : Word) : List Instr := framenOps 16 v

/-- `SERVICE`: POP; if it returned a sample, DECODE it (R79). -/
def service (s : State) : Host.Outcome State Fault Refusal :=
  andThen (exec .pop s) fun t =>
    match t.answer with
    | .pop true data => exec (.decode data) t
    | _ => .next t

/-- `PCLK d`: a pin-level clock pulse at latch level `l`: active level, then inactive (R79). -/
def pclkOps (c : Cfg) (l d : Bool) : List Instr := [.sample c.clkActive l d, .sample (!c.clkActive) l d]

/-- `PLATCH`: a pin-level latch pulse at clock level `k`: active level, then inactive (R79). -/
def platchOps (c : Cfg) (k : Bool) : List Instr := [.sample k c.latchActive false, .sample k (!c.latchActive) false]

/-- A value the wire carries most significant bit first (R53): the first level is the highest bit. -/
def wireValue (levels : List Bool) : Nat := levels.foldl (fun n d => 2 * n + d.toNat) 0

end Sys2Proof.Machine
end

