-- ==== Sys2Proof/Machine/Trace.lean ====
section
/-! DEFINITION. How operations and results are written (spec/30_encoding.md R78), and which context and which agent each
operation belongs to (R74, spec/60_exceptions.md R203, spec/00_scope.md R15). -/

namespace Sys2Proof.Machine

/-- The two execution contexts (R203). -/
inductive Context where
  /-- Interrupt context. -/
  | producer
  /-- Main-loop context. -/
  | consumer
deriving DecidableEq, Repr

/-- The agents that issue operations (R15). -/
inductive Agent where
  /-- Drives the clock, latch and data-in lines. -/
  | environment
  /-- The one consumer (R66). -/
  | host
deriving DecidableEq, Repr

/-- The context of an operation (R74). -/
def context (i : Instr) : Context :=
  match i with
  | .clk _ => .producer
  | .latch => .producer
  | .pop => .consumer
  | .btnw _ _ => .consumer
  | .stat => .consumer
  | .init _ _ => .consumer
  | .disable => .consumer
  | .sample _ _ _ => .producer
  | .classify _ => .consumer
  | .segdec _ _ => .consumer
  | .leddec _ => .consumer
  | .decode _ => .consumer
  | .getdig => .consumer
  | .getled => .consumer

/-- Who issues an operation: the environment issues the producer's, the host the consumer's (R74). The operation code alone
decides it, so that a consumer operation cannot be issued from the producer context (R66, U2). -/
def issuedBy (i : Instr) : Agent :=
  match context i with
  | .producer => .environment
  | .consumer => .host

/-- The operation belongs to the optional unit DEC (R150). -/
def usesDec (i : Instr) : Bool :=
  match i with
  | .clk _ => false
  | .latch => false
  | .pop => false
  | .btnw _ _ => false
  | .stat => false
  | .init _ _ => false
  | .disable => false
  | .sample _ _ _ => false
  | .classify _ => true
  | .segdec _ _ => true
  | .leddec _ => true
  | .decode _ => true
  | .getdig => true
  | .getled => true

/-- A number in decimal (R78). -/
def num {n : Nat} (v : BitVec n) : String := Nat.repr v.toNat
/-- A pin level or a one-bit result (R78). -/
def bit (b : Bool) : String := if b then "1" else "0"

/-- An operation as text, operands in the order of R78. -/
def opText (i : Instr) : String :=
  match i with
  | .clk d => "CLK " ++ bit d
  | .latch => "LATCH"
  | .pop => "POP"
  | .btnw code n => "BTNW " ++ num code ++ ", " ++ num n
  | .stat => "STAT"
  | .init c l => "INIT " ++ bit c ++ ", " ++ bit l
  | .disable => "DISABLE"
  | .sample c l d => "SAMPLE " ++ bit c ++ ", " ++ bit l ++ ", " ++ bit d
  | .classify w => "CLASSIFY " ++ num w
  | .segdec p w => "SEGDEC " ++ num p ++ ", " ++ num w
  | .leddec w => "LEDDEC " ++ num w
  | .decode w => "DECODE " ++ num w
  | .getdig => "GETDIG"
  | .getled => "GETLED"

/-- A result as text, after `->` (R78). -/
def answerText (a : Answer) : String :=
  match a with
  | .nothing => ""
  | .pop valid data => "-> (valid = " ++ bit valid ++ ", data = " ++ num data ++ ")"
  | .stat status => "-> (status = " ++ num status ++ ")"
  | .btnw accepted => "-> (accepted = " ++ bit accepted ++ ")"
  | .classify kind => "-> (kind = " ++ num kind ++ ")"
  | .segdec hit done => "-> (hit = " ++ bit hit ++ ", frame_done = " ++ bit done ++ ")"
  | .leddec ev => "-> (ev = " ++ num ev ++ ")"
  | .decode kind hit done ev =>
    "-> (kind = " ++ num kind ++ ", hit = " ++ bit hit ++ ", frame_done = " ++ bit done ++ ", ev = " ++ num ev ++ ")"
  | .getdig digits => "-> (digits = " ++ num digits ++ ")"
  | .getled flags pub => "-> (flags = " ++ num flags ++ ", pub = " ++ num pub ++ ")"

end Sys2Proof.Machine
end

