-- ==== Sys2Proof/Safety.lean ====
section
/-! DEFINITION. The terms claims are made in: the abstract queue of spec/10_state.md R29, the invariant that every state
reachable from reset satisfies, and what a run that is not stopped is. -/

namespace Sys2Proof.Machine

/-- The abstract queue `q = [ mem[(rd + k) mod 64] | k = 0 .. fill - 1 ]`, oldest first (R29). -/
def queue (s : State) : List Word := (List.range (fill s)).map fun k => ringRead s ((s.rd.toNat + k) % 64)

/-- What PUSH does to the abstract queue (R29, R110): append, dropping the oldest when 64 are held. -/
def pushQueue (q : List Word) (v : Word) : List Word := (if q.length = 64 then q.tail else q) ++ [v]

/-- Every sample held was written by a PUSH since reset (R29). -/
def queueWritten (s : State) : Prop := ∀ k < fill s, (s.mem.read ((s.rd.toNat + k) % 64)).isSome = true

/-- The legal combinations of the lifecycle register: (inited, irq_en) is never (0, 1) (R32). -/
def legalLifecycle (s : State) : Prop := s.irqEn = true → s.inited = true

/-- What still holds its reset value while INIT has not been performed: capture, ring buffer, line, edge detectors (R91,
R180). -/
structure BeforeInit (s : State) : Prop where
  acc : s.acc = 0
  cnt : s.cnt = 0
  mem : s.mem = []
  wr : s.wr = 0
  rd : s.rd = 0
  outLow : s.outLow = false
  clkQ : s.clkQ = false
  latchQ : s.latchQ = false

/-- The invariant of BCB. -/
structure Inv (s : State) : Prop where
  /-- RING is in canonical form. -/
  memory : s.mem.wf = true
  /-- `0 <= fill <= 64` (R29). -/
  fillBound : fill s ≤ 64
  /-- No unread sample is unspecified (R22, R29). -/
  written : queueWritten s
  /-- The lifecycle register is legal (R32). -/
  lifecycle : legalLifecycle s
  /-- Nothing is captured before INIT (R91). -/
  beforeInit : s.inited = false → BeforeInit s

/-- The operation reads an LED-bank word: LEDDEC, or DECODE of a word of kind LED (R161, R162). -/
def readsLedBank (c : Cfg) (i : Instr) : Bool :=
  match i with
  | .clk _ => false
  | .latch => false
  | .pop => false
  | .btnw _ _ => false
  | .stat => false
  | .init _ _ => false
  | .disable => false
  | .sample _ _ _ => false
  | .classify _ => false
  | .segdec _ _ => false
  | .leddec _ => true
  | .decode w => classify c w == .led
  | .getdig => false
  | .getled => false

/-- The word at the latch the operation performs, which is the word SEQ_STEP compares (R92, R94, R133): LATCH of an enabled block
sees `acc`, and a SAMPLE that shows the active latch edge sees `acc` after the clock edge it shows, if any. `none` where the
operation performs no latch. -/
def latchedWord (i : Instr) (s : State) : Option Word :=
  match i with
  | .latch => if s.irqEn then some s.acc else none
  | .sample c l d =>
    if s.irqEn && activeEdge s.cfg.cfg.latchActive s.latchQ l then
      some (if activeEdge s.cfg.cfg.clkActive s.clkQ c then shiftIn s.acc d else s.acc)
    else none
  | .clk _ => none
  | .pop => none
  | .btnw _ _ => none
  | .stat => none
  | .init _ _ => none
  | .disable => none
  | .classify _ => none
  | .segdec _ _ => none
  | .leddec _ => none
  | .decode _ => none
  | .getdig => none
  | .getled => none

/-- Between `s` and `t` a request has waited: count and code are as they were, the line is released, and in `t` the block is busy and
refuses a BTNW (R135). -/
def requestWaits (s t : State) : Prop :=
  t.btnRem = s.btnRem ∧ t.btnCode = s.btnCode ∧ t.outLow = false ∧ busy t = true ∧
    ∀ code n, exec (.btnw code n) t = .next { t with answer := .btnw false }

/-- The operation has a next state. -/
def completes (o : Host.Outcome State Fault Refusal) : Prop := ∃ t, o = .next t

/-- A run that is not stopped: every operation of the list completes. -/
def runsThrough (ops : List Instr) (s : State) : Prop := completes (performAll ops s)

end Sys2Proof.Machine
end

