-- ==== Sys2Proof/Certificates/Slice0/Obligations.lean ====
section
/-! DEFINITION. The statements about BCB, each a Prop, in the order of OBLIGATIONS.json. Where a docstring says "the spec's
decision D<n>", the clause rests on a choice the spec marks as its own (spec/92_eei_decisions.md), not on the source; where
it says "derived", on an inference the spec marks as its own. -/

open Sys2Proof Sys2Proof.Machine

/-! ### Encoding -/

/-- Decoding the word of any operation gives the operation back, every operand at every value (the spec's decision D2). -/
def Obligations.DecodeEncodeAgree : Prop := ∀ i : Instr, decode (encode i) = .ok i

/-- No bit of an accepted operation word is ignored: the operation the decoder reads has that word and no other (the spec's
decision D2). -/
def Obligations.EncodeDecodeAgree : Prop := ∀ (w : OpWord) (i : Instr), decode w = .ok i → encode i = w

/-- The decoder accepts exactly the words of the fourteen mask-and-match rows of spec/opcode_table.json, each as the row's
mnemonic; every other word is reserved (the spec's decision D2). -/
def Obligations.DecoderAcceptsTableRows : Prop :=
  ∀ w : OpWord,
    (∀ i, decode w = .ok i → ∃ r ∈ opTable, r.mnemonic = i.mnemonic ∧ w &&& r.mask = r.pattern) ∧
    (∀ r ∈ opTable, w &&& r.mask = r.pattern → ∃ i, decode w = .ok i ∧ i.mnemonic = r.mnemonic)

/-- A step at a reserved word is refused: at every word the decoder calls reserved, with the decoder's reason; at every word that
belongs to no row of the opcode table, which is every case of R76, an operand bit that must be 0 among them; and in particular at
operation codes 0x0 and 0xF and at a non-zero `rsv` field (the spec's decision D2; refused and not a fault: entry U5; that a
reason is given: the model's choice, log 28). -/
def Obligations.ReservedWordsRefused : Prop :=
  ∀ (s : State) (w : OpWord) (rest : List OpWord), s.stream = w :: rest →
    (∀ why, decode w = .error why → step s = .refused (.reservedWord why)) ∧
    ((∀ r ∈ opTable, w &&& r.mask ≠ r.pattern) → ∃ why, step s = .refused (.reservedWord why)) ∧
    (w.toNat / 2 ^ 28 = 0 ∨ w.toNat / 2 ^ 28 = 15 ∨ w.toNat / 2 ^ 24 % 16 ≠ 0 →
      ∃ why, step s = .refused (.reservedWord why))

/-- Six of the words spec/95_test_vectors.md V-E1 writes out decode to the operations it names. -/
def Obligations.SpecWordsDecode : Prop :=
  decode 0x10000001 = .ok (.clk true) ∧ decode 0x40028101 = .ok (.btnw 0x8101 2) ∧
  decode 0x60000003 = .ok (.init true true) ∧ decode 0x80000007 = .ok (.sample true true true) ∧
  decode 0xA0034FC6 = .ok (.segdec 3 0x4FC6) ∧ decode 0xE0000000 = .ok .getled

/-! ### The execution -/

/-- A step performs the operation its next word decodes to, on the state without that word (the form of the execution: the spec's
decision D12; that the operations issued are held in State is the model's choice, log 1). -/
def Obligations.StepRunsDecoded : Prop :=
  ∀ (s : State) (w : OpWord) (rest : List OpWord) (i : Instr), s.stream = w :: rest → decode w = .ok i →
    step s = exec i { s with stream := rest }

/-- With no operation issued nothing changes (the model's choice, log 2). -/
def Obligations.StepWaits : Prop := ∀ s : State, s.stream = [] → step s = .next s

/-- Steps over a stream of encoded operations perform them one after another, and the operations issued after them wait; an
operation works on the state that all operations before it left, with no delayed visibility; and no operation is a fence: each one
changes a state somewhere or returns a tuple, which for STAT, CLASSIFY, GETDIG and GETLED is all it does, since they change no state
of the spec's (the spec's decisions D12, D30; the model's choices: the stream, log 1, and that a returned tuple is held in State,
log 3). -/
def Obligations.RunPerformsStream : Prop :=
  (∀ (ops : List Instr) (s t : State) (later : List OpWord), performAll ops s = .next t →
    Sys2Proof.core.run ops.length { s with stream := ops.map encode ++ later } = .next { t with stream := later }) ∧
  (∀ (before : List Instr) (i : Instr) (s t : State), performAll (before ++ [i]) s = .next t ↔
    ∃ u, performAll before s = .next u ∧ exec i u = .next t) ∧
  (∀ i : Instr, ¬ isFence i)

/-- No operation faults; every operation has a next state, but for a second INIT and for the six DEC operations of a block without
DEC, which are refused by name (refusals: the spec's decisions D14, D27). -/
def Obligations.EveryOperationAnswers : Prop :=
  ∀ (i : Instr) (s : State),
    (∃ t, exec i s = .next t) ∨
    (∃ c l, i = .init c l ∧ s.inited = true ∧ exec i s = .refused .secondInit) ∨
    (usesDec i = true ∧ s.cfg.cfg.hasDecode = false ∧ exec i s = .refused .noDecodeUnit)

/-! ### Reset and the invariant -/

/-- The power-up state of a block with any configuration: every element as the table of R42 has it, no cell of RING written,
nothing issued and nothing answered, the status word 0x0080 and the line released (reset values: the spec's decision D18; the
last two fields: the model's choice, logs 1 and 3). -/
def Obligations.PowerUpState : Prop :=
  ∀ c : WfCfg, let s := State.powerUp c
    s.acc = 0x0000 ∧ s.cnt = 0 ∧ (∀ k, s.mem.read k = none) ∧ s.wr = 0 ∧ s.rd = 0 ∧ s.btnCode = 0x0000 ∧ s.btnRem = 0 ∧
    s.outLow = false ∧ s.inited = false ∧ s.irqEn = false ∧ s.clkQ = false ∧ s.latchQ = false ∧
    s.digit = #v[13, 13, 13, 13] ∧ s.ledPub = 0 ∧ s.ledTent = 0 ∧ s.cfg = c ∧ s.stream = [] ∧ s.answer = .nothing ∧
    dout s = true ∧ exec .stat s = .next { s with answer := .stat 0x0080 }

/-- The invariant holds at power-up, for every configuration, and at reset. -/
def Obligations.ResetInv : Prop := (∀ c : WfCfg, Inv (State.powerUp c)) ∧ Inv State.reset

/-- Every step keeps the invariant: RING canonical, at most 64 unread samples and all of them written, a legal lifecycle
register, nothing captured before INIT (derived, spec/10_state.md R29, R32; spec/40_capture.md R91). -/
def Obligations.StepKeepsInv : Prop := ∀ s t : State, Inv s → step s = .next t → Inv t

/-- No step changes the configuration, SEGROM among it, and no operation adds to or takes from the operations still to be
performed: only the step takes one (derived, R7, R52; that the configuration is a field of State: the model's choice, log 4; that
the operations to come stand in State and only the step takes one: the model's choice, log 1). -/
def Obligations.ConfigurationFixed : Prop :=
  (∀ s t : State, step s = .next t → t.cfg = s.cfg ∧ t.stream = s.stream.tail) ∧
  (∀ (i : Instr) (s t : State), exec i s = .next t → t.cfg = s.cfg ∧ t.stream = s.stream)

/-- The lifecycle register moves only as R183 says: INIT takes (0, 0) to (1, 1), DISABLE clears `irq_en`, nothing else moves it,
and nothing leaves (1, 0) (derived; the spec's decision D14). -/
def Obligations.LifecycleMoves : Prop :=
  ∀ (i : Instr) (s t : State), exec i s = .next t →
    (((∃ c l, i = .init c l) ∧ s.inited = false ∧ t.inited = true ∧ t.irqEn = true) ∨
     (i = .disable ∧ t.inited = s.inited ∧ t.irqEn = false) ∨
     ((∀ c l, i ≠ .init c l) ∧ i ≠ .disable ∧ t.inited = s.inited ∧ t.irqEn = s.irqEn)) ∧
    (s.inited = true → s.irqEn = false → t.inited = true ∧ t.irqEn = false)

/-! ### Capture -/

/-- CLK with interrupts enabled: one bit in at position 0, old bit 15 lost, one more edge counted up to 31, nothing else (edge
count: the spec's decisions D3, D17). -/
def Obligations.ClkShiftsOneBitIn : Prop :=
  ∀ (s : State) (d : Bool), s.irqEn = true →
    exec (.clk d) s = .next { s with
      acc := BitVec.ofNat 16 (2 * s.acc.toNat + d.toNat)
      cnt := BitVec.ofNat 5 (min (s.cnt.toNat + 1) 31) }

/-- With interrupts disabled CLK, LATCH and SAMPLE leave every state element unchanged (the spec's decision D15). -/
def Obligations.ProducerGated : Prop :=
  ∀ (s : State) (c l d : Bool), s.irqEn = false →
    exec (.clk d) s = .next s ∧ exec .latch s = .next s ∧ exec (.sample c l d) s = .next s

/-- LATCH (R92): its word; with interrupts enabled it pushes `acc` exactly when `cnt` is 16, always advances the sequencer,
clears `acc` and `cnt`; the order of the push and the sequencer step cannot be observed; `fill` rises by 1 or stays. -/
def Obligations.LatchEffect : Prop :=
  encode .latch = 0x20000000 ∧
  (∀ s : State, s.irqEn = true →
    exec .latch s = .next { seqStep s.acc (if s.cnt = 16 then push s.acc s else s) with acc := 0x0000, cnt := 0 }) ∧
  (∀ (s : State) (a v : Word), seqStep a (push v s) = push v (seqStep a s)) ∧
  (∀ s t : State, s.irqEn = true → fill s ≤ 64 → exec .latch s = .next t →
    fill t = if s.cnt = 16 ∧ fill s < 64 then fill s + 1 else fill s)

/-- What LATCH leaves alone. The one cell it can store to is the one at `wr[5:0]`, and it stores only a word of 16 edges (the
encoding of the cursors: the spec's decision D4). -/
def Obligations.LatchFrame : Prop :=
  ∀ s : State, s.irqEn = true → ∃ t, exec .latch s = .next t ∧
    (∀ a, a ≠ s.wr.toNat % 64 → t.mem.read a = s.mem.read a) ∧
    (t.mem.read (s.wr.toNat % 64) = if s.cnt = 16 then some s.acc else s.mem.read (s.wr.toNat % 64)) ∧
    t.wr = (if s.cnt = 16 then s.wr + 1 else s.wr) ∧
    t.rd = (if s.cnt = 16 ∧ s.wr - s.rd = 64 then s.rd + 1 else s.rd) ∧
    t.acc = 0 ∧ t.cnt = 0 ∧ t.btnCode = s.btnCode ∧ t.inited = s.inited ∧ t.irqEn = s.irqEn ∧ t.clkQ = s.clkQ ∧
    t.latchQ = s.latchQ ∧ t.digit = s.digit ∧ t.ledPub = s.ledPub ∧ t.ledTent = s.ledTent ∧ t.cfg = s.cfg ∧
    t.stream = s.stream ∧ t.answer = s.answer

/-- SAMPLE with interrupts enabled: CLK first if the clock line moved to its active level, then LATCH if the latch line did, both
seen against the levels of before, then the levels are kept (the spec's decision D16). -/
def Obligations.SampleEdges : Prop :=
  ∀ (s : State) (c l d : Bool), s.irqEn = true → ∃ s1 s2 : State,
    (if s.clkQ ≠ c ∧ c = s.cfg.cfg.clkActive then exec (.clk d) s = .next s1 else s1 = s) ∧
    (if s.latchQ ≠ l ∧ l = s.cfg.cfg.latchActive then exec .latch s1 = .next s2 else s2 = s1) ∧
    exec (.sample c l d) s = .next { s2 with clkQ := c, latchQ := l }

/-- A pin-level clock pulse is one CLK, the clock line standing at its inactive level before; a pin-level latch pulse is one LATCH,
the latch line standing at its inactive level before and the clock line at either (the spec's decisions D2, D16). -/
def Obligations.PinPulsesAreEvents : Prop :=
  ∀ (s : State) (d : Bool), s.irqEn = true →
    (s.clkQ = !s.cfg.cfg.clkActive → performAll (pclkOps s.cfg.cfg s.latchQ d) s = exec (.clk d) s) ∧
    (s.latchQ = !s.cfg.cfg.latchActive → performAll (platchOps s.cfg.cfg s.clkQ) s = exec .latch s)

/-- Between two latches `acc` collects the levels of the wire, first level in the highest place, the earlier ones shifted out
beyond 16, and `cnt` counts the edges up to 31 (derived; width of the counter: the spec's decision D3). -/
def Obligations.ClocksCollectTheWord : Prop :=
  ∀ (s : State) (ds : List Bool), s.irqEn = true → s.acc = 0 → s.cnt = 0 →
    performAll (clkOps ds) s = .next { s with
      acc := BitVec.ofNat 16 (wireValue ds)
      cnt := BitVec.ofNat 5 (min ds.length 31) }

/-- A latch keeps exactly the words of 16 clock edges, whatever the number of edges, and leaves the capture unit clear; the value
kept is the sixteen levels, first in bit 15 (derived, R93; width of the counter: the spec's decision D3). -/
def Obligations.LatchKeepsSixteenEdges : Prop :=
  ∀ (s : State) (ds : List Bool), s.irqEn = true → s.acc = 0 → s.cnt = 0 → fill s ≤ 64 →
    ∃ t, performAll (clkOps ds ++ [.latch]) s = .next t ∧ t.acc = 0 ∧ t.cnt = 0 ∧ t.irqEn = true ∧
      queue t = if ds.length = 16 then pushQueue (queue s) (BitVec.ofNat 16 (wireValue ds)) else queue s

/-- `FRAME v` with interrupts enabled pushes `v` (derived; the spec's decision D2). -/
def Obligations.FramePushes : Prop :=
  ∀ (s : State) (v : Word), s.irqEn = true → s.acc = 0 → s.cnt = 0 → fill s ≤ 64 →
    ∃ t, performAll (frameOps v) s = .next t ∧ queue t = pushQueue (queue s) v ∧ t.acc = 0 ∧ t.cnt = 0

/-- What the producer operations never touch: the code of the request, the lifecycle register, DEC, the configuration, the
operations still to come, and the answer the host was last given; CLK in particular touches only `acc` and `cnt` (derived, R41,
R95). -/
def Obligations.ProducerFrame : Prop :=
  ∀ (i : Instr) (s t : State), context i = .producer → exec i s = .next t →
    t.btnCode = s.btnCode ∧ t.inited = s.inited ∧ t.irqEn = s.irqEn ∧ t.digit = s.digit ∧ t.ledPub = s.ledPub ∧
    t.ledTent = s.ledTent ∧ t.cfg = s.cfg ∧ t.stream = s.stream ∧ t.answer = s.answer ∧
    (∀ d, i = .clk d → t = { s with acc := t.acc, cnt := t.cnt })

/-- What the consumer operations never touch: RING, the write cursor and the data-out line; the capture unit and the edge
detectors only INIT writes, and only once: an INIT that completes found `inited` 0 and leaves it 1 (derived, R41; a second INIT
is refused: the spec's decision D14). -/
def Obligations.ConsumerFrame : Prop :=
  ∀ (i : Instr) (s t : State), context i = .consumer → exec i s = .next t →
    (∀ a, t.mem.read a = s.mem.read a) ∧ t.mem = s.mem ∧ t.wr = s.wr ∧ t.outLow = s.outLow ∧
    ((∀ c l, i ≠ .init c l) → t.acc = s.acc ∧ t.cnt = s.cnt ∧ t.clkQ = s.clkQ ∧ t.latchQ = s.latchQ) ∧
    (∀ c l, i = .init c l → s.inited = false ∧ t.inited = true) ∧
    (i ≠ .pop → t.rd = s.rd) ∧
    ((∀ code n, i ≠ .btnw code n) → t.btnCode = s.btnCode ∧ t.btnRem = s.btnRem)

/-- `acc` and `cnt` are hidden from the host: but for INIT, which clears them, a consumer operation does the same, with the same
answer, whatever they hold (the spec's decision D28). -/
def Obligations.CaptureHiddenFromHost : Prop :=
  ∀ (i : Instr) (s t : State) (a : Word) (n : BitVec 5), context i = .consumer → (∀ c l, i ≠ .init c l) →
    exec i s = .next t → exec i { s with acc := a, cnt := n } = .next { t with acc := a, cnt := n }

/-! ### Ring buffer -/

/-- RING: an operation writes no cell, or it is a producer operation that performs a latch, advances `wr` and writes the latched word
to the one cell at `wr[5:0]`; POP returns the cell at `rd[5:0]`; no other operation reads a cell: it does the same whatever RING
holds, and a word it writes is the same too; a cell read after it was written gives the 16 bits written, and every other cell what
it gave; no index is outside 0..63 (derived, R51, R23, R110; form of the cursors: the spec's decision D4, log 29). -/
def Obligations.RingAccesses : Prop :=
  (∀ (i : Instr) (s t : State), exec i s = .next t →
    (t.mem = s.mem ∧ t.wr = s.wr) ∨
    (context i = .producer ∧ t.wr = s.wr + 1 ∧
      ∃ v, latchedWord i s = some v ∧ t.mem = s.mem.write (s.wr.toNat % 64) v)) ∧
  (∀ (s t : State), exec .pop s = .next t → s.wr ≠ s.rd →
    t.answer = .pop true (ringRead s (s.rd.toNat % 64))) ∧
  (∀ (i : Instr) (s t : State), i ≠ .pop → exec i s = .next t →
    (∀ m : Memory, exec i { s with mem := m } = .next { t with mem := m }) ∨
    (∃ v, latchedWord i s = some v ∧
      ∀ m : Memory, exec i { s with mem := m } = .next { t with mem := m.write (s.wr.toNat % 64) v })) ∧
  (∀ (m : Memory) (a b : Nat) (v : Word), (m.write a v).read b = if b = a then some v else m.read b) ∧
  (∀ c : BitVec 7, cellIndex c = c.toNat % 64 ∧ cellIndex c < 64)

/-- LATCH on the abstract queue: a word of 16 edges is appended, the oldest dropped when 64 are held; any other word leaves the
queue (derived, R29, R110; form of the cursors: the spec's decision D4). -/
def Obligations.LatchRefinesQueue : Prop :=
  ∀ s : State, s.irqEn = true → fill s ≤ 64 →
    ∃ t, exec .latch s = .next t ∧ queue t = if s.cnt = 16 then pushQueue (queue s) s.acc else queue s

/-- POP on the abstract queue: valid = 0 and no change on an empty one; else the head is returned and the tail remains, only `rd`
moving (empty queue: the spec's decision D5). -/
def Obligations.PopRefinesQueue : Prop :=
  ∀ s : State,
    (queue s = [] → exec .pop s = .next { s with answer := .pop false 0x0000 }) ∧
    (∀ v q, queue s = v :: q →
      exec .pop s = .next { s with rd := s.rd + 1, answer := .pop true v } ∧
      queue { s with rd := s.rd + 1, answer := .pop true v } = q)

/-- No operation but POP and a latch changes the abstract queue: LATCH itself and a SAMPLE that shows the active latch edge are set
aside, and every other SAMPLE keeps the queue (derived, R29; the edge: the spec's decision D16). -/
def Obligations.OthersKeepQueue : Prop :=
  ∀ (i : Instr) (s t : State), i ≠ .pop → i ≠ .latch →
    (∀ c l d, i = .sample c l d → ¬ (s.latchQ ≠ l ∧ l = s.cfg.cfg.latchActive)) → exec i s = .next t →
    queue t = queue s

/-- In a state that satisfies the invariant POP returns only a sample that was written since reset, never the unspecified content
of a cell (derived, R22, R29). -/
def Obligations.PopReadsOnlyWritten : Prop :=
  ∀ s t : State, Inv s → exec .pop s = .next t →
    ∀ v, t.answer = .pop true v → s.mem.read (s.rd.toNat % 64) = some v

/-- Any number of words framed into an empty buffer: the queue holds the last 64 of them, in order (derived, R112). -/
def Obligations.OverflowKeepsLast64 : Prop :=
  ∀ (s : State) (vs : List Word), s.irqEn = true → s.acc = 0 → s.cnt = 0 → fill s = 0 →
    ∃ t, performAll (vs.flatMap frameOps) s = .next t ∧ queue t = vs.drop (vs.length - 64)

/-- Draining returns the samples held in order, each once: as many POPs as there are samples return them oldest first and leave
the buffer empty (derived, R114). -/
def Obligations.PopOrder : Prop :=
  ∀ (s : State) (q1 q2 : List Word) (v : Word), queue s = q1 ++ v :: q2 →
    ∃ t, performAll (List.replicate (q1.length + 1) .pop) s = .next t ∧ t.answer = .pop true v ∧ queue t = q2

/-- POP and a latch on a full buffer, both orders: POP first returns the oldest and nothing is dropped after it; the latch first
drops the oldest and POP returns the second oldest (derived, R115). -/
def Obligations.PopAndLatchBothOrders : Prop :=
  ∀ (s : State) (v1 v2 : Word) (q : List Word), s.irqEn = true → s.cnt = 16 → fill s = 64 → queue s = v1 :: v2 :: q →
    (∃ t, performAll [.pop, .latch] s = .next t ∧ t.answer = .pop true v1 ∧ queue t = v2 :: q ++ [s.acc]) ∧
    (∃ t, performAll [.latch, .pop] s = .next t ∧ t.answer = .pop true v2 ∧ queue t = q ++ [s.acc])

/-- STAT returns fill, empty, full, busy, out_low, irq_en, inited in bits 6:0, 7, 8, 9, 10, 11, 12 and changes nothing (the spec's
decision D1). -/
def Obligations.StatWord : Prop :=
  ∀ s : State, ∃ w : BitVec 13, exec .stat s = .next { s with answer := .stat w } ∧
    w.toNat = fill s + 128 * (decide (s.wr = s.rd)).toNat + 256 * (decide (fill s = 64)).toNat
      + 512 * (decide (s.btnRem ≠ 0 ∨ s.outLow = true)).toNat + 1024 * s.outLow.toNat + 2048 * s.irqEn.toNat
      + 4096 * s.inited.toNat

/-! ### Sequencer -/

/-- BTNW: refused with nothing changed while the request has not completed its pulse cycle, else the code and the count are taken;
`n = 0` starts nothing (the spec's decisions D6, D7, D10). -/
def Obligations.BtnwAcceptsOrRefuses : Prop :=
  ∀ (s : State) (code : Word) (n : BitVec 8),
    (s.btnRem ≠ 0 ∨ s.outLow = true → exec (.btnw code n) s = .next { s with answer := .btnw false }) ∧
    (s.btnRem = 0 ∧ s.outLow = false →
      exec (.btnw code n) s = .next { s with btnCode := code, btnRem := n, answer := .btnw true } ∧
      (busy { s with btnCode := code, btnRem := n, answer := .btnw true } = false ↔ n = 0))

/-- The line and the count at a latch: released if it was low, whatever the word; else driven low with one pulse fewer to go if
pulses remain and the word is the code in all 16 bits, whatever `cnt` is; else unchanged (the spec's decisions D8, D9). -/
def Obligations.LatchAdvancesSequencer : Prop :=
  ∀ s : State, s.irqEn = true → ∃ t, exec .latch s = .next t ∧ t.btnCode = s.btnCode ∧
    (s.outLow = true → t.outLow = false ∧ t.btnRem = s.btnRem) ∧
    (s.outLow = false → s.btnRem ≠ 0 → s.acc = s.btnCode → t.outLow = true ∧ t.btnRem.toNat + 1 = s.btnRem.toNat) ∧
    (s.outLow = false → (s.btnRem = 0 ∨ s.acc ≠ s.btnCode) → t.outLow = false ∧ t.btnRem = s.btnRem)

/-- `dout` changes only at a latch: LATCH itself, or a SAMPLE that shows the active latch edge (the spec's decisions D11, D16). -/
def Obligations.LineChangesOnlyAtLatch : Prop :=
  ∀ (i : Instr) (s t : State), exec i s = .next t → dout t ≠ dout s →
    s.irqEn = true ∧ (i = .latch ∨
      ∃ c l d, i = .sample c l d ∧ s.latchQ ≠ l ∧ l = s.cfg.cfg.latchActive)

/-- At most one request and no cancellation: while busy the code stays and the count never rises; busy ends only at a latch, LATCH
itself or a SAMPLE that shows the active latch edge, that finds the handlers enabled, the last pulse driven and the line low
(derived, R131; meaning of busy: the spec's decision D7; the edge: D16). -/
def Obligations.RequestKeptUntilComplete : Prop :=
  ∀ (i : Instr) (s t : State), busy s = true → exec i s = .next t →
    t.btnCode = s.btnCode ∧ t.btnRem ≤ s.btnRem ∧
    (busy t = false → s.btnRem = 0 ∧ s.outLow = true ∧ t.outLow = false ∧ s.irqEn = true ∧
      (i = .latch ∨ ∃ c l d, i = .sample c l d ∧ s.latchQ ≠ l ∧ l = s.cfg.cfg.latchActive))

/-- A pulse cycle on a bus that carries the code in every second word: after `k` of the `n` rounds, each the code and then any
word, `n - k` pulses remain, the line is released, and the block is busy exactly while rounds remain (derived, R134; release
priority: the spec's decision D8). -/
def Obligations.PulseCycleOnScannedBus : Prop :=
  ∀ (s : State) (others : List Word), s.irqEn = true → s.acc = 0 → s.cnt = 0 → s.outLow = false →
    others.length ≤ s.btnRem.toNat →
    ∃ t, performAll (others.flatMap fun v => frameOps s.btnCode ++ frameOps v) s = .next t ∧
      t.btnRem.toNat = s.btnRem.toNat - others.length ∧ t.outLow = false ∧ t.btnCode = s.btnCode ∧
      (busy t = true ↔ others.length < s.btnRem.toNat)

/-- A request that never matches never ends. First, for every operation of either agent: with the line released and pulses left, an
operation that performs no latch, or a latch at a word other than the code, whatever the number of edges, leaves the count, the
code and the line, and the block stays busy and refuses a BTNW. Second, the same of every run all of whose latches are such.
Third, such runs exist: any framed words other than the code go through and make one (derived, R135; meaning of busy: the spec's
decision D7; the compare: D9; the edges of SAMPLE: D16). -/
def Obligations.UnmatchedRequestNeverEnds : Prop :=
  (∀ (i : Instr) (s t : State), s.outLow = false → s.btnRem ≠ 0 → latchedWord i s ≠ some s.btnCode → exec i s = .next t →
    requestWaits s t) ∧
  (∀ (ops : List Instr) (s t : State), s.outLow = false → s.btnRem ≠ 0 →
    (∀ before i after u, ops = before ++ i :: after → performAll before s = .next u → latchedWord i u ≠ some s.btnCode) →
    performAll ops s = .next t → requestWaits s t) ∧
  (∀ (s : State) (vs : List Word), s.irqEn = true → s.acc = 0 → s.cnt = 0 → s.outLow = false → s.btnRem ≠ 0 →
    (∀ v ∈ vs, v ≠ s.btnCode) → ∃ t, performAll (vs.flatMap frameOps) s = .next t ∧ requestWaits s t)

/-- After DISABLE nothing moves the line again, and an unfinished request stays for ever: no sequence of operations that goes
through changes the line, ends the request or enables the handlers (derived, R230; the spec's decision D14). -/
def Obligations.DisabledForGood : Prop :=
  ∀ (ops : List Instr) (s t : State), s.inited = true → s.irqEn = false → performAll ops s = .next t →
    t.irqEn = false ∧ dout t = dout s ∧ t.acc = s.acc ∧ t.cnt = s.cnt ∧ t.wr = s.wr ∧ t.mem = s.mem ∧
    (busy s = true → busy t = true ∧ t.btnRem = s.btnRem ∧ t.btnCode = s.btnCode)

/-! ### Decode assist -/

/-- CLASSIFY returns ECHO for a word that is a button code once the buzzer bit is ORed in, whatever tests it passes besides; else
the first of DIGIT0 to DIGIT3 and LED whose mask-and-match test passes; else UNKNOWN; and changes nothing (the spec's decision
D22). -/
def Obligations.ClassifyOrder : Prop :=
  ∀ (s : State) (w : Word), s.cfg.cfg.hasDecode = true →
    ∃ k : BitVec 3, exec (.classify w) s = .next { s with answer := .classify k } ∧
      (let c := s.cfg.cfg
       let hit := fun t : KindTest => w &&& t.mask = t.pattern
       if ∃ b : Fin 7, w ||| c.buzzerMask = c.btnCode[b] then k = 1
       else if hit c.digitTest[0] then k = 4
       else if hit c.digitTest[1] then k = 5
       else if hit c.digitTest[2] then k = 6
       else if hit c.digitTest[3] then k = 7
       else if hit c.ledTest then k = 2
       else k = 0)

/-- A word that matches none of the patterns is silently ignored: kind UNKNOWN, no state change (R154). -/
def Obligations.UnknownWordIgnored : Prop :=
  ∀ (s : State) (w : Word), s.cfg.cfg.hasDecode = true →
    (∀ b : Fin 7, w ||| s.cfg.cfg.buzzerMask ≠ s.cfg.cfg.btnCode[b]) →
    (∀ p : Fin 4, w &&& (s.cfg.cfg.digitTest[p]).mask ≠ (s.cfg.cfg.digitTest[p]).pattern) →
    w &&& s.cfg.cfg.ledTest.mask ≠ s.cfg.cfg.ledTest.pattern →
    exec (.classify w) s = .next { s with answer := .classify 0 } ∧
    exec (.decode w) s = .next { s with answer := .decode 0 false false 0 }

/-- SEGDEC of a word whose complemented segment bits are the table entry of `g` stores `g` in the slot: hit, and frame_done exactly
for position 3; nothing else changes (the spec's decisions D23, D24). -/
def Obligations.SegdecHit : Prop :=
  ∀ (s : State) (p : BitVec 2) (w : Word) (g : Glyph), s.cfg.cfg.hasDecode = true →
    ~~~w &&& s.cfg.cfg.segMask = s.cfg.cfg.segTable[g] →
    exec (.segdec p w) s = .next { s with
      digit := s.digit.set p.toNat g p.isLt
      answer := .segdec true (p == 3) }

/-- SEGDEC of a pattern that is not in the table leaves every slot; frame_done is raised for position 3 all the same (the spec's
decisions D23, D24). -/
def Obligations.SegdecMiss : Prop :=
  ∀ (s : State) (p : BitVec 2) (w : Word), s.cfg.cfg.hasDecode = true →
    (∀ g : Glyph, ~~~w &&& s.cfg.cfg.segMask ≠ s.cfg.cfg.segTable[g]) →
    exec (.segdec p w) s = .next { s with answer := .segdec false (p == 3) }

/-- `decode(table[x]) == x`: for every admitted configuration, every table entry decodes to its own index, and the word whose
segment bits are the complement of the entry stores that glyph (derived, R157). -/
def Obligations.SegTableDecodesToItself : Prop :=
  ∀ (c : WfCfg) (g : Glyph), decodeGlyph c.cfg c.cfg.segTable[g] = some g ∧
    ∀ (s t : State) (p : BitVec 2), s.cfg = c → exec (.segdec p (~~~c.cfg.segTable[g])) s = .next t →
      t.digit[p.toNat]'p.isLt = g

/-- The raw LED bits have inverted logic, as LEDDEC shows them: right after it the tentative bit of each of the five LEDs is 1
exactly when the word's bit at that LED's fixed position is 0 (derived, R158, R159; that all five tentative bits follow the word,
each LED on its own: the spec's decision D25, log 25). -/
def Obligations.RawLedInverted : Prop :=
  ∀ (s : State) (w : Word), s.cfg.cfg.hasDecode = true → ∃ t, exec (.leddec w) s = .next t ∧
    ∀ k : Fin 5, t.ledTent.getLsbD k = !w.getLsbD (s.cfg.cfg.ledBit[k]).val

/-- LEDDEC, LED by LED: published takes the raw bit where it agrees with the tentative one and stays where it does not; tentative
becomes the raw bit; nothing outside the LED sets changes (each LED on its own: the spec's decision D25). -/
def Obligations.LeddecDebounces : Prop :=
  ∀ (s : State) (w : Word), s.cfg.cfg.hasDecode = true → ∃ tent pub ev : BitVec 5,
    exec (.leddec w) s = .next { s with ledTent := tent, ledPub := pub, answer := .leddec ev } ∧
    (∀ k : Fin 5, pub.getLsbD k =
      if rawLed s.cfg.cfg w k = s.ledTent.getLsbD k then rawLed s.cfg.cfg w k else s.ledPub.getLsbD k) ∧
    (∀ k : Fin 5, tent.getLsbD k = rawLed s.cfg.cfg w k)

/-- The event bits: power, heatingEnabled, heating, filter, bubbles, each set exactly when that flag of the published LEDs differs
after the operation (the spec's decision D26). -/
def Obligations.LedEventsAreFlagChanges : Prop :=
  ∀ (s t : State) (w : Word) (ev : BitVec 5), exec (.leddec w) s = .next t → t.answer = .leddec ev →
    let was := s.ledPub
    let now := t.ledPub
    (ev.getLsbD 0 = true ↔ was.getLsbD 0 ≠ now.getLsbD 0) ∧
    (ev.getLsbD 1 = true ↔ (was.getLsbD 3 || was.getLsbD 2) ≠ (now.getLsbD 3 || now.getLsbD 2)) ∧
    (ev.getLsbD 2 = true ↔ was.getLsbD 3 ≠ now.getLsbD 3) ∧
    (ev.getLsbD 3 = true ↔ was.getLsbD 4 ≠ now.getLsbD 4) ∧
    (ev.getLsbD 4 = true ↔ was.getLsbD 1 ≠ now.getLsbD 1)

/-- What counts as consecutive: between two LEDDEC operations any operations that read no LED-bank word may fall, in any number,
and leave both LED sets; a LED is published exactly where the two reads agree (derived, R161, R159; each LED on its own: the
spec's decision D25, log 25). -/
def Obligations.ConsecutiveLedReads : Prop :=
  ∀ (s s1 t u : State) (w1 w2 : Word) (ops : List Instr), (∀ i ∈ ops, readsLedBank s.cfg.cfg i = false) →
    exec (.leddec w1) s = .next s1 → performAll ops s1 = .next t → exec (.leddec w2) t = .next u →
    t.ledTent = s1.ledTent ∧ t.ledPub = s1.ledPub ∧
    ∀ k : Fin 5, u.ledPub.getLsbD k =
      if rawLed s.cfg.cfg w1 k = rawLed s.cfg.cfg w2 k then rawLed s.cfg.cfg w2 k else s1.ledPub.getLsbD k

/-- A one-word flip that reverts publishes nothing and raises no event, neither at the word that flips nor at the word that reverts,
whatever non-LED operations fall between the two (derived, R159, R160, R161; property E5 of the source; each LED on its own: the
spec's decision D25, log 25; the events: D26, log 26). -/
def Obligations.GlitchPublishesNothing : Prop :=
  ∀ (s s1 t u : State) (w1 w2 : Word) (ops : List Instr), (∀ i ∈ ops, readsLedBank s.cfg.cfg i = false) →
    s.ledTent = s.ledPub → (∀ k : Fin 5, rawLed s.cfg.cfg w2 k = s.ledPub.getLsbD k) →
    exec (.leddec w1) s = .next s1 → performAll ops s1 = .next t → exec (.leddec w2) t = .next u →
    s1.ledPub = s.ledPub ∧ s1.answer = .leddec 0 ∧
    u.ledPub = s.ledPub ∧ u.ledTent = s.ledTent ∧ u.answer = .leddec 0

/-- DECODE discards an echo and an unknown word, does what SEGDEC does with a digit word and what LEDDEC does with an LED-bank word,
and answers with the kind (derived, R162). -/
def Obligations.DecodeRoutes : Prop :=
  ∀ (s : State) (w : Word), s.cfg.cfg.hasDecode = true →
    match classify s.cfg.cfg w with
    | .echo => exec (.decode w) s = .next { s with answer := .decode 1 false false 0 }
    | .unknown => exec (.decode w) s = .next { s with answer := .decode 0 false false 0 }
    | .digit p => ∃ t hit done, exec (.segdec p w) s = .next t ∧ t.answer = .segdec hit done ∧
        exec (.decode w) s = .next { t with answer := .decode (BitVec.ofNat 3 (4 + p.toNat)) hit done 0 }
    | .led => ∃ t ev, exec (.leddec w) s = .next t ∧ t.answer = .leddec ev ∧
        exec (.decode w) s = .next { t with answer := .decode 2 false false ev }

/-- GETDIG returns the four slots, slot 0 in bits 15:12, and changes nothing (the spec's decisions D19, D20). -/
def Obligations.GetdigWord : Prop :=
  ∀ s : State, s.cfg.cfg.hasDecode = true → ∃ d : Word, exec .getdig s = .next { s with answer := .getdig d } ∧
    d.toNat = 4096 * s.digit[0].val + 256 * s.digit[1].val + 16 * s.digit[2].val + s.digit[3].val

/-- GETLED returns the published set and the flags power, heatingEnabled, heating, filter, bubbles of it, and changes nothing (the
spec's decisions D21, D26). -/
def Obligations.GetledFlags : Prop :=
  ∀ s : State, s.cfg.cfg.hasDecode = true → ∃ f : BitVec 5, exec .getled s = .next { s with answer := .getled f s.ledPub } ∧
    f.getLsbD 0 = s.ledPub.getLsbD 0 ∧ f.getLsbD 1 = (s.ledPub.getLsbD 3 || s.ledPub.getLsbD 2) ∧
    f.getLsbD 2 = s.ledPub.getLsbD 3 ∧ f.getLsbD 3 = s.ledPub.getLsbD 4 ∧ f.getLsbD 4 = s.ledPub.getLsbD 1

/-- In a block without DEC the six DEC operations are refused (the spec's decision D27). -/
def Obligations.DecAbsentRefused : Prop :=
  ∀ (s : State) (p : BitVec 2) (w : Word), s.cfg.cfg.hasDecode = false →
    exec (.classify w) s = .refused .noDecodeUnit ∧ exec (.segdec p w) s = .refused .noDecodeUnit ∧
    exec (.leddec w) s = .refused .noDecodeUnit ∧ exec (.decode w) s = .refused .noDecodeUnit ∧
    exec .getdig s = .refused .noDecodeUnit ∧ exec .getled s = .refused .noDecodeUnit

/-- No DEC operation writes CAP, RB, SEQ, lifecycle or edge-detector state, memory in particular, and none reads any of it: a DEC
operation does the same, with the same answer, whatever that state holds, the lifecycle register included, which gates none of
them (the spec's decision D27). -/
def Obligations.DecIsSeparate : Prop :=
  ∀ (i : Instr) (s t : State), usesDec i = true → exec i s = .next t →
    t = { s with digit := t.digit, ledPub := t.ledPub, ledTent := t.ledTent, answer := t.answer } ∧
    (∀ a, t.mem.read a = s.mem.read a) ∧
    (∀ acc cnt mem wr rd btnCode btnRem outLow inited irqEn clkQ latchQ,
      exec i { s with
        acc := acc, cnt := cnt, mem := mem, wr := wr, rd := rd, btnCode := btnCode, btnRem := btnRem, outLow := outLow,
        inited := inited, irqEn := irqEn, clkQ := clkQ, latchQ := latchQ } =
      .next { t with
        acc := acc, cnt := cnt, mem := mem, wr := wr, rd := rd, btnCode := btnCode, btnRem := btnRem, outLow := outLow,
        inited := inited, irqEn := irqEn, clkQ := clkQ, latchQ := latchQ })

/-! ### Lifecycle -/

/-- INIT: the first one clears the capture unit, primes the edge detectors with the present levels and enables both handlers,
nothing else; a second one is refused (the spec's decisions D14, D16, D33). -/
def Obligations.InitOnce : Prop :=
  ∀ (s : State) (c l : Bool),
    (s.inited = false → exec (.init c l) s = .next { s with
      acc := 0x0000, cnt := 0, clkQ := c, latchQ := l, inited := true, irqEn := true }) ∧
    (s.inited = true → exec (.init c l) s = .refused .secondInit)

/-- DISABLE clears `irq_en` and nothing else, in every lifecycle state; a second DISABLE changes nothing (the spec's decision
D14). -/
def Obligations.DisableClearsEnable : Prop :=
  ∀ s : State, exec .disable s = .next { s with irqEn := false } ∧
    performAll [.disable, .disable] s = exec .disable s

/-! ### The error conditions -/

/-- The seven error conditions of R201, each with its effect: a word of other than 16 edges is not pushed; a push into a full
buffer drops the oldest sample; a POP of an empty one answers valid = 0; a BTNW while busy answers accepted = 0; a word of no
known kind is ignored; a segment pattern not in the table leaves the slot, hit = 0; a LED read that disagrees with the tentative
one publishes nothing. No error state is kept: where nothing is said to change, the state is the same but for the answer (empty
buffer, meaning of busy, frame_done, each LED on its own: the spec's decisions D5, D7, D24, D25). -/
def Obligations.ErrorConditionsAbsorbed : Prop :=
  ∀ s : State,
    (s.irqEn = true → s.cnt ≠ 16 → ∃ t, exec .latch s = .next t ∧ t.mem = s.mem ∧ t.wr = s.wr ∧ t.rd = s.rd) ∧
    (s.irqEn = true → s.cnt = 16 → fill s = 64 →
      ∃ t, exec .latch s = .next t ∧ queue t = (queue s).tail ++ [s.acc]) ∧
    (fill s = 0 → exec .pop s = .next { s with answer := .pop false 0 }) ∧
    (∀ code n, busy s = true → exec (.btnw code n) s = .next { s with answer := .btnw false }) ∧
    (∀ w, s.cfg.cfg.hasDecode = true → classify s.cfg.cfg w = .unknown →
      exec (.decode w) s = .next { s with answer := .decode 0 false false 0 }) ∧
    (∀ p w, s.cfg.cfg.hasDecode = true → (∀ g : Glyph, s.cfg.cfg.segTable[g] ≠ ~~~w &&& s.cfg.cfg.segMask) →
      exec (.segdec p w) s = .next { s with answer := .segdec false (p == 3) }) ∧
    (∀ w, s.cfg.cfg.hasDecode = true → ∃ t, exec (.leddec w) s = .next t ∧
      ∀ k : Fin 5, rawLed s.cfg.cfg w k ≠ s.ledTent.getLsbD k →
        t.ledPub.getLsbD k = s.ledPub.getLsbD k ∧ t.ledTent.getLsbD k = rawLed s.cfg.cfg w k)
end

