-- ==== Sys2Proof/Laws/Decode.lean ====
section
/-! SUPPORT. The fields of an operation word (spec/30_encoding.md R73): reading back what was put in, and a word is its
fields. -/

namespace Sys2Proof

@[simp] theorem OpWord.op_ofFields (o : BitVec 4) (n : BitVec 8) (imm : Word) : OpWord.op (OpWord.ofFields o n imm) = o := by
  apply BitVec.eq_of_getLsbD_eq
  intro k hk
  simp only [OpWord.op, OpWord.ofFields, BitVec.getLsbD_extractLsb', BitVec.getLsbD_append]
  simp [show ¬ 28 + k < 16 by omega, show ¬ 28 + k - 16 < 8 by omega, show ¬ 28 + k - 16 - 8 < 4 by omega, hk,
    show 28 + k - 16 - 8 - 4 = k by omega]

@[simp] theorem OpWord.rsv_ofFields (o : BitVec 4) (n : BitVec 8) (imm : Word) : OpWord.rsv (OpWord.ofFields o n imm) = 0 := by
  apply BitVec.eq_of_getLsbD_eq
  intro k hk
  simp only [OpWord.rsv, OpWord.ofFields, BitVec.getLsbD_extractLsb', BitVec.getLsbD_append]
  simp [show ¬ 24 + k < 16 by omega, show ¬ 24 + k - 16 < 8 by omega, show 24 + k - 16 - 8 < 4 by omega]

@[simp] theorem OpWord.n_ofFields (o : BitVec 4) (n : BitVec 8) (imm : Word) : OpWord.n (OpWord.ofFields o n imm) = n := by
  apply BitVec.eq_of_getLsbD_eq
  intro k hk
  simp only [OpWord.n, OpWord.ofFields, BitVec.getLsbD_extractLsb', BitVec.getLsbD_append]
  simp [show ¬ 16 + k < 16 by omega, hk]

@[simp] theorem OpWord.imm_ofFields (o : BitVec 4) (n : BitVec 8) (imm : Word) :
    OpWord.imm (OpWord.ofFields o n imm) = imm := by
  apply BitVec.eq_of_getLsbD_eq
  intro k hk
  simp only [OpWord.imm, OpWord.ofFields, BitVec.getLsbD_extractLsb', BitVec.getLsbD_append]
  simp [hk]

/-- A word whose reserved field is 0 is its other three fields. -/
theorem OpWord.ofFields_self (w : OpWord) (h : OpWord.rsv w = 0) :
    OpWord.ofFields (OpWord.op w) (OpWord.n w) (OpWord.imm w) = w := by
  apply BitVec.eq_of_toNat_eq
  have h0 : w.toNat / 2 ^ 24 % 2 ^ 4 = 0 := by
    have := congrArg BitVec.toNat h
    simpa [OpWord.rsv, BitVec.extractLsb'_toNat, Nat.shiftRight_eq_div_pow] using this
  have hw := w.isLt
  simp only [OpWord.ofFields, OpWord.op, OpWord.n, OpWord.imm, BitVec.toNat_append, BitVec.extractLsb'_toNat,
    Nat.shiftRight_eq_div_pow, BitVec.toNat_ofNat]
  rw [← Nat.shiftLeft_add_eq_or_of_lt (by omega), ← Nat.shiftLeft_add_eq_or_of_lt (by omega),
    ← Nat.shiftLeft_add_eq_or_of_lt (by omega)]
  simp only [Nat.shiftLeft_eq]
  omega

theorem levels_bit0 (b2 b1 b0 : Bool) : (levels b2 b1 b0).getLsbD 0 = b0 := by revert b2 b1 b0; decide
theorem levels_bit1 (b2 b1 b0 : Bool) : (levels b2 b1 b0).getLsbD 1 = b1 := by revert b2 b1 b0; decide
theorem levels_bit2 (b2 b1 b0 : Bool) : (levels b2 b1 b0).getLsbD 2 = b2 := by revert b2 b1 b0; decide

/-- A word with only its low bit is its level (CLK). -/
theorem levels_of_shift1 {v : Word} (h : v >>> 1 = 0) : levels false false (v.getLsbD 0) = v := by
  have h2 : v.toNat / 2 = 0 := by simpa [Nat.shiftRight_eq_div_pow] using congrArg BitVec.toNat h
  rw [← show BitVec.ofNat 16 v.toNat = v by simp]
  have hb : v.toNat < 2 := by omega
  generalize v.toNat = m at hb
  revert m; decide

/-- A word with only its two low bits is its levels (INIT). -/
theorem levels_of_shift2 {v : Word} (h : v >>> 2 = 0) : levels false (v.getLsbD 1) (v.getLsbD 0) = v := by
  have h2 : v.toNat / 4 = 0 := by simpa [Nat.shiftRight_eq_div_pow] using congrArg BitVec.toNat h
  rw [← show BitVec.ofNat 16 v.toNat = v by simp]
  have hb : v.toNat < 4 := by omega
  generalize v.toNat = m at hb
  revert m; decide

/-- A word with only its three low bits is its levels (SAMPLE). -/
theorem levels_of_shift3 {v : Word} (h : v >>> 3 = 0) : levels (v.getLsbD 2) (v.getLsbD 1) (v.getLsbD 0) = v := by
  have h2 : v.toNat / 8 = 0 := by simpa [Nat.shiftRight_eq_div_pow] using congrArg BitVec.toNat h
  rw [← show BitVec.ofNat 16 v.toNat = v by simp]
  have hb : v.toNat < 8 := by omega
  generalize v.toNat = m at hb
  revert m; decide

/-- A position field with no bit above its two is the position (SEGDEC). -/
theorem position_of_shift2 {n : BitVec 8} (h : n >>> 2 = 0) : (n.setWidth 2).setWidth 8 = n := by
  revert n; decide

/-- Everything a row can answer. -/
theorem rowOrReserved_ok {rsv : BitVec 4} {zero : Bool} {i j : Instr} :
    rowOrReserved rsv zero i = .ok j ↔ rsv = 0 ∧ zero = true ∧ j = i := by
  unfold rowOrReserved
  by_cases h : rsv = 0
  · cases zero
    · simp [h]
    · simp [h, eq_comm]
  · rw [if_pos h]
    exact ⟨nofun, fun e => absurd e.1 h⟩

/-- The decoder on a word written from its fields. -/
theorem decode_ofFields (o : BitVec 4) (n : BitVec 8) (imm : Word) :
    decode (OpWord.ofFields o n imm) = rowOf o.toNat 0 n imm := by
  simp [decode]

/-- An accepted word has a reserved field of 0. -/
theorem rsv_of_decode {w : OpWord} {i : Instr} (h : decode w = .ok i) : OpWord.rsv w = 0 := by
  unfold decode rowOf at h
  split at h
  all_goals first
    | exact (rowOrReserved_ok.1 h).1
    | cases h

/-- A word is its four fields (R73). -/
theorem OpWord.eq_append (v : OpWord) :
    v = (OpWord.op v ++ OpWord.rsv v ++ OpWord.n v ++ OpWord.imm v : BitVec 32) := by
  apply BitVec.eq_of_toNat_eq
  have hw := v.isLt
  simp only [OpWord.op, OpWord.rsv, OpWord.n, OpWord.imm, BitVec.toNat_append, BitVec.extractLsb'_toNat,
    Nat.shiftRight_eq_div_pow]
  rw [← Nat.shiftLeft_add_eq_or_of_lt (by omega), ← Nat.shiftLeft_add_eq_or_of_lt (by omega),
    ← Nat.shiftLeft_add_eq_or_of_lt (by omega)]
  simp only [Nat.shiftLeft_eq]
  omega

theorem extractLsb'_and {n : Nat} (w m : BitVec n) (a k : Nat) :
    (w &&& m).extractLsb' a k = w.extractLsb' a k &&& m.extractLsb' a k := by
  apply BitVec.eq_of_getLsbD_eq
  intro i hi
  simp [hi]

/-- A mask-and-match row splits into its four fields. -/
theorem OpWord.masked_iff (w m p : OpWord) : w &&& m = p ↔
    OpWord.op w &&& OpWord.op m = OpWord.op p ∧ OpWord.rsv w &&& OpWord.rsv m = OpWord.rsv p ∧
    OpWord.n w &&& OpWord.n m = OpWord.n p ∧ OpWord.imm w &&& OpWord.imm m = OpWord.imm p := by
  constructor
  · rintro rfl
    exact ⟨(extractLsb'_and ..).symm, (extractLsb'_and ..).symm, (extractLsb'_and ..).symm, (extractLsb'_and ..).symm⟩
  · rintro ⟨h1, h2, h3, h4⟩
    rw [OpWord.eq_append (w &&& m), OpWord.eq_append p, ← h1, ← h2, ← h3, ← h4]
    simp only [OpWord.op, OpWord.rsv, OpWord.n, OpWord.imm, extractLsb'_and]

/-- A field with no bit under a mask that covers every place from `k` up is 0 after a shift by `k`. -/
theorem shiftRight_of_masked {n : Nat} {v m : BitVec n} {k : Nat} (hm : ∀ i < n, k ≤ i → m.getLsbD i = true)
    (h : v &&& m = 0) : v >>> k = 0 := by
  apply BitVec.eq_of_getLsbD_eq
  intro i _
  rw [BitVec.getLsbD_ushiftRight]
  by_cases hk : k + i < n
  · have := congrArg (fun x => x.getLsbD (k + i)) h
    simp only [BitVec.getLsbD_and, hm (k + i) hk (by omega), Bool.and_true] at this
    simpa using this
  · rw [BitVec.getLsbD_of_ge _ _ (by omega)]; simp

end Sys2Proof
end

