-- ==== Sys2Proof/Laws/Memory.lean ====
section
/-! SUPPORT. The laws of RING (spec/20_memory.md R51): read after write, and the canonical form. -/

namespace Sys2Proof.Machine

@[simp] theorem Memory.read_write_same (m : Memory) (i : Nat) (v : Word) : (m.write i v).read i = some v := by
  induction m with
  | nil => simp [Memory.write, Memory.read]
  | cons c rest ih =>
    obtain ⟨j, u⟩ := c
    simp only [Memory.write]
    split
    · simp [Memory.read]
    · split
      · simp [Memory.read]
      · rename_i h; simp [Memory.read, h, ih]

theorem Memory.read_write_other (m : Memory) {i k : Nat} (v : Word) (h : k ≠ i) : (m.write i v).read k = m.read k := by
  induction m with
  | nil => simp [Memory.write, Memory.read, h]
  | cons c rest ih =>
    obtain ⟨j, u⟩ := c
    simp only [Memory.write]
    split
    · simp [Memory.read, h]
    · split
      · rename_i e; subst e; simp [Memory.read, h]
      · simp [Memory.read, ih]

/-- Reading any cell after a write. -/
theorem Memory.read_write (m : Memory) (i k : Nat) (v : Word) :
    (m.write i v).read k = if k = i then some v else m.read k := by
  split
  · subst k; simp
  · rename_i h; exact Memory.read_write_other m v h

/-- The cells of a written ring: the written index, and the indices it had. -/
theorem Memory.mem_keys_write (m : Memory) (i j : Nat) (v : Word) :
    j ∈ (m.write i v).map Prod.fst → j = i ∨ j ∈ m.map Prod.fst := by
  induction m with
  | nil => simp [Memory.write]
  | cons c rest ih =>
    obtain ⟨k, u⟩ := c
    simp only [Memory.write]
    split
    · simp
    · split
      · rename_i h; subst h; simp
      · simp only [List.map_cons, List.mem_cons]
        rintro (h | h)
        · exact .inr (.inl h)
        · rcases ih h with h | h
          · exact .inl h
          · exact .inr (.inr h)

theorem Memory.wf_iff (m : Memory) :
    m.wf = true ↔ (m.map Prod.fst).Pairwise (· < ·) ∧ ∀ j ∈ m.map Prod.fst, j < 64 := by
  simp [Memory.wf, List.all_eq_true]

theorem Memory.wf_nil : Memory.wf [] = true := rfl

/-- A write to a cell of RING keeps the canonical form. -/
theorem Memory.write_wf {m : Memory} {i : Nat} (v : Word) (hm : m.wf = true) (hi : i < 64) : (m.write i v).wf = true := by
  rw [Memory.wf_iff] at hm ⊢
  refine ⟨?_, fun j hj => ?_⟩
  · induction m with
    | nil => simp [Memory.write]
    | cons c rest ih =>
      obtain ⟨k, u⟩ := c
      obtain ⟨hp, hb⟩ := hm
      simp only [List.map_cons, List.pairwise_cons] at hp
      have ih' := ih ⟨hp.2, fun j hj => hb j (by simp [hj])⟩
      simp only [Memory.write]
      split
      · rename_i hlt
        simp only [List.map_cons, List.pairwise_cons, List.mem_cons]
        refine ⟨?_, hp.1, hp.2⟩
        rintro a (rfl | ha)
        · exact hlt
        · exact hlt.trans (hp.1 a ha)
      · split
        · rename_i _ he
          subst he
          simpa only [List.map_cons, List.pairwise_cons] using hp
        · rename_i hlt hne
          simp only [List.map_cons, List.pairwise_cons]
          refine ⟨fun a ha => ?_, ih'⟩
          rcases Memory.mem_keys_write rest i a v ha with rfl | ha
          · omega
          · exact hp.1 a ha
  · rcases Memory.mem_keys_write m i j v hj with rfl | hj
    · exact hi
    · exact hm.2 j hj

end Sys2Proof.Machine
end

