-- ==== Sys2Proof/Laws/Operands.lean ====
section
/-! SUPPORT. What the operand forms and the derived status values compute, bit by bit or in exact arithmetic. -/

namespace Sys2Proof.Machine

theorem bits5_bit0 (b4 b3 b2 b1 b0 : Bool) : (bits5 b4 b3 b2 b1 b0).getLsbD 0 = b0 := by
  revert b4 b3 b2 b1 b0; decide
theorem bits5_bit1 (b4 b3 b2 b1 b0 : Bool) : (bits5 b4 b3 b2 b1 b0).getLsbD 1 = b1 := by
  revert b4 b3 b2 b1 b0; decide
theorem bits5_bit2 (b4 b3 b2 b1 b0 : Bool) : (bits5 b4 b3 b2 b1 b0).getLsbD 2 = b2 := by
  revert b4 b3 b2 b1 b0; decide
theorem bits5_bit3 (b4 b3 b2 b1 b0 : Bool) : (bits5 b4 b3 b2 b1 b0).getLsbD 3 = b3 := by
  revert b4 b3 b2 b1 b0; decide
theorem bits5_bit4 (b4 b3 b2 b1 b0 : Bool) : (bits5 b4 b3 b2 b1 b0).getLsbD 4 = b4 := by
  revert b4 b3 b2 b1 b0; decide

@[simp] theorem bits5_get0 (b4 b3 b2 b1 b0 : Bool) : (bits5 b4 b3 b2 b1 b0)[0] = b0 := bits5_bit0 ..
@[simp] theorem bits5_get1 (b4 b3 b2 b1 b0 : Bool) : (bits5 b4 b3 b2 b1 b0)[1] = b1 := bits5_bit1 ..
@[simp] theorem bits5_get2 (b4 b3 b2 b1 b0 : Bool) : (bits5 b4 b3 b2 b1 b0)[2] = b2 := bits5_bit2 ..
@[simp] theorem bits5_get3 (b4 b3 b2 b1 b0 : Bool) : (bits5 b4 b3 b2 b1 b0)[3] = b3 := bits5_bit3 ..
@[simp] theorem bits5_get4 (b4 b3 b2 b1 b0 : Bool) : (bits5 b4 b3 b2 b1 b0)[4] = b4 := bits5_bit4 ..

/-- A bitset built from a function of the index has that function's bits. -/
theorem bits5_getLsbD (d : Fin 5 → Bool) (k : Fin 5) : (bits5 (d 4) (d 3) (d 2) (d 1) (d 0)).getLsbD k = d k := by
  match k with
  | 0 => exact bits5_bit0 ..
  | 1 => exact bits5_bit1 ..
  | 2 => exact bits5_bit2 ..
  | 3 => exact bits5_bit3 ..
  | 4 => exact bits5_bit4 ..

/-- Two bitsets of five with the same bits are equal. -/
theorem bits5_ext {a b : BitVec 5} (h : ∀ k : Fin 5, a.getLsbD k = b.getLsbD k) : a = b :=
  BitVec.eq_of_getLsbD_eq fun i hi => h ⟨i, hi⟩

theorem cellIndex_eq (c : BitVec 7) : cellIndex c = c.toNat % 64 := by
  simp [cellIndex, BitVec.extractLsb'_toNat]

theorem cellIndex_lt (c : BitVec 7) : cellIndex c < 64 := by
  rw [cellIndex_eq]; exact Nat.mod_lt _ (by decide)

theorem activeEdge_iff (active was now : Bool) :
    activeEdge active was now = true ↔ was ≠ now ∧ now = active := by
  simp [activeEdge]

/-- The tentative bit becomes the raw bit; the published bit does where raw and tentative agree (R159). -/
theorem debounce_eq (raw tent pub : Bool) : debounce raw tent pub = (raw, if raw = tent then raw else pub) := by
  revert raw tent pub; decide

theorem newTent_bit (c : Cfg) (w : Word) (tent pub : BitVec 5) (k : Fin 5) :
    (newTent c w tent pub).getLsbD k = rawLed c w k := by
  rw [newTent, bits5_getLsbD fun k : Fin 5 => (debounce (rawLed c w k) (tent.getLsbD k) (pub.getLsbD k)).1,
    debounce_eq]

theorem newPub_bit (c : Cfg) (w : Word) (tent pub : BitVec 5) (k : Fin 5) :
    (newPub c w tent pub).getLsbD k =
      if rawLed c w k = tent.getLsbD k then rawLed c w k else pub.getLsbD k := by
  rw [newPub, bits5_getLsbD fun k : Fin 5 => (debounce (rawLed c w k) (tent.getLsbD k) (pub.getLsbD k)).2,
    debounce_eq]

/-- The tentative set after a word depends on the word alone. -/
theorem newTent_eq (c : Cfg) (w : Word) (t1 p1 t2 p2 : BitVec 5) : newTent c w t1 p1 = newTent c w t2 p2 :=
  bits5_ext fun k => by rw [newTent_bit, newTent_bit]

/-- A glyph found is one whose table entry is the pattern. -/
theorem decodeGlyph_some {c : Cfg} {pat : Word} {g : Glyph} (h : decodeGlyph c pat = some g) : c.segTable[g] = pat := by
  have := List.find?_some h
  simpa [romRead] using this

theorem decodeGlyph_none_iff (c : Cfg) (pat : Word) : decodeGlyph c pat = none ↔ ∀ g : Glyph, c.segTable[g] ≠ pat := by
  simp [decodeGlyph, romRead]

theorem echo_iff (c : Cfg) (w : Word) : isEcho c w = true ↔ ∃ b : Fin 7, w ||| c.buzzerMask = c.btnCode[b] := by
  simp only [isEcho, List.any_eq_true, beq_iff_eq, Vector.mem_toList_iff, Vector.mem_iff_getElem]
  constructor
  · rintro ⟨x, ⟨i, hi, rfl⟩, h⟩
    exact ⟨⟨i, hi⟩, h⟩
  · rintro ⟨b, h⟩
    exact ⟨c.btnCode[b], ⟨b.val, b.isLt, rfl⟩, h⟩

theorem passes_iff (t : KindTest) (w : Word) : passes t w = true ↔ w &&& t.mask = t.pattern := by
  simp [passes]

theorem eventBits_self (p : BitVec 5) : eventBits p p = 0 := by
  simp [eventBits]

end Sys2Proof.Machine
end

