-- ==== Sys2Proof/Laws/State.lean ====
section
/-! SUPPORT. One lemma per field per writer of Machine/Ops.lean, each true by rfl, so that no later proof unfolds a record
update. -/

namespace Sys2Proof.Machine

variable (s : State)

/-! ### setCapture -/

@[simp] theorem State.setCapture_acc (a : Word) (n : BitVec 5) : (s.setCapture a n).acc = a := rfl
@[simp] theorem State.setCapture_cnt (a : Word) (n : BitVec 5) : (s.setCapture a n).cnt = n := rfl
@[simp] theorem State.setCapture_mem (a : Word) (n : BitVec 5) : (s.setCapture a n).mem = s.mem := rfl
@[simp] theorem State.setCapture_wr (a : Word) (n : BitVec 5) : (s.setCapture a n).wr = s.wr := rfl
@[simp] theorem State.setCapture_rd (a : Word) (n : BitVec 5) : (s.setCapture a n).rd = s.rd := rfl
@[simp] theorem State.setCapture_btnCode (a : Word) (n : BitVec 5) : (s.setCapture a n).btnCode = s.btnCode := rfl
@[simp] theorem State.setCapture_btnRem (a : Word) (n : BitVec 5) : (s.setCapture a n).btnRem = s.btnRem := rfl
@[simp] theorem State.setCapture_outLow (a : Word) (n : BitVec 5) : (s.setCapture a n).outLow = s.outLow := rfl
@[simp] theorem State.setCapture_inited (a : Word) (n : BitVec 5) : (s.setCapture a n).inited = s.inited := rfl
@[simp] theorem State.setCapture_irqEn (a : Word) (n : BitVec 5) : (s.setCapture a n).irqEn = s.irqEn := rfl
@[simp] theorem State.setCapture_clkQ (a : Word) (n : BitVec 5) : (s.setCapture a n).clkQ = s.clkQ := rfl
@[simp] theorem State.setCapture_latchQ (a : Word) (n : BitVec 5) : (s.setCapture a n).latchQ = s.latchQ := rfl
@[simp] theorem State.setCapture_digit (a : Word) (n : BitVec 5) : (s.setCapture a n).digit = s.digit := rfl
@[simp] theorem State.setCapture_ledPub (a : Word) (n : BitVec 5) : (s.setCapture a n).ledPub = s.ledPub := rfl
@[simp] theorem State.setCapture_ledTent (a : Word) (n : BitVec 5) : (s.setCapture a n).ledTent = s.ledTent := rfl
@[simp] theorem State.setCapture_cfg (a : Word) (n : BitVec 5) : (s.setCapture a n).cfg = s.cfg := rfl
@[simp] theorem State.setCapture_stream (a : Word) (n : BitVec 5) : (s.setCapture a n).stream = s.stream := rfl
@[simp] theorem State.setCapture_answer (a : Word) (n : BitVec 5) : (s.setCapture a n).answer = s.answer := rfl

/-! ### setMem -/

@[simp] theorem State.setMem_acc (m : Memory) : (s.setMem m).acc = s.acc := rfl
@[simp] theorem State.setMem_cnt (m : Memory) : (s.setMem m).cnt = s.cnt := rfl
@[simp] theorem State.setMem_mem (m : Memory) : (s.setMem m).mem = m := rfl
@[simp] theorem State.setMem_wr (m : Memory) : (s.setMem m).wr = s.wr := rfl
@[simp] theorem State.setMem_rd (m : Memory) : (s.setMem m).rd = s.rd := rfl
@[simp] theorem State.setMem_btnCode (m : Memory) : (s.setMem m).btnCode = s.btnCode := rfl
@[simp] theorem State.setMem_btnRem (m : Memory) : (s.setMem m).btnRem = s.btnRem := rfl
@[simp] theorem State.setMem_outLow (m : Memory) : (s.setMem m).outLow = s.outLow := rfl
@[simp] theorem State.setMem_inited (m : Memory) : (s.setMem m).inited = s.inited := rfl
@[simp] theorem State.setMem_irqEn (m : Memory) : (s.setMem m).irqEn = s.irqEn := rfl
@[simp] theorem State.setMem_clkQ (m : Memory) : (s.setMem m).clkQ = s.clkQ := rfl
@[simp] theorem State.setMem_latchQ (m : Memory) : (s.setMem m).latchQ = s.latchQ := rfl
@[simp] theorem State.setMem_digit (m : Memory) : (s.setMem m).digit = s.digit := rfl
@[simp] theorem State.setMem_ledPub (m : Memory) : (s.setMem m).ledPub = s.ledPub := rfl
@[simp] theorem State.setMem_ledTent (m : Memory) : (s.setMem m).ledTent = s.ledTent := rfl
@[simp] theorem State.setMem_cfg (m : Memory) : (s.setMem m).cfg = s.cfg := rfl
@[simp] theorem State.setMem_stream (m : Memory) : (s.setMem m).stream = s.stream := rfl
@[simp] theorem State.setMem_answer (m : Memory) : (s.setMem m).answer = s.answer := rfl

/-! ### setWr -/

@[simp] theorem State.setWr_acc (c : BitVec 7) : (s.setWr c).acc = s.acc := rfl
@[simp] theorem State.setWr_cnt (c : BitVec 7) : (s.setWr c).cnt = s.cnt := rfl
@[simp] theorem State.setWr_mem (c : BitVec 7) : (s.setWr c).mem = s.mem := rfl
@[simp] theorem State.setWr_wr (c : BitVec 7) : (s.setWr c).wr = c := rfl
@[simp] theorem State.setWr_rd (c : BitVec 7) : (s.setWr c).rd = s.rd := rfl
@[simp] theorem State.setWr_btnCode (c : BitVec 7) : (s.setWr c).btnCode = s.btnCode := rfl
@[simp] theorem State.setWr_btnRem (c : BitVec 7) : (s.setWr c).btnRem = s.btnRem := rfl
@[simp] theorem State.setWr_outLow (c : BitVec 7) : (s.setWr c).outLow = s.outLow := rfl
@[simp] theorem State.setWr_inited (c : BitVec 7) : (s.setWr c).inited = s.inited := rfl
@[simp] theorem State.setWr_irqEn (c : BitVec 7) : (s.setWr c).irqEn = s.irqEn := rfl
@[simp] theorem State.setWr_clkQ (c : BitVec 7) : (s.setWr c).clkQ = s.clkQ := rfl
@[simp] theorem State.setWr_latchQ (c : BitVec 7) : (s.setWr c).latchQ = s.latchQ := rfl
@[simp] theorem State.setWr_digit (c : BitVec 7) : (s.setWr c).digit = s.digit := rfl
@[simp] theorem State.setWr_ledPub (c : BitVec 7) : (s.setWr c).ledPub = s.ledPub := rfl
@[simp] theorem State.setWr_ledTent (c : BitVec 7) : (s.setWr c).ledTent = s.ledTent := rfl
@[simp] theorem State.setWr_cfg (c : BitVec 7) : (s.setWr c).cfg = s.cfg := rfl
@[simp] theorem State.setWr_stream (c : BitVec 7) : (s.setWr c).stream = s.stream := rfl
@[simp] theorem State.setWr_answer (c : BitVec 7) : (s.setWr c).answer = s.answer := rfl

/-! ### setRd -/

@[simp] theorem State.setRd_acc (c : BitVec 7) : (s.setRd c).acc = s.acc := rfl
@[simp] theorem State.setRd_cnt (c : BitVec 7) : (s.setRd c).cnt = s.cnt := rfl
@[simp] theorem State.setRd_mem (c : BitVec 7) : (s.setRd c).mem = s.mem := rfl
@[simp] theorem State.setRd_wr (c : BitVec 7) : (s.setRd c).wr = s.wr := rfl
@[simp] theorem State.setRd_rd (c : BitVec 7) : (s.setRd c).rd = c := rfl
@[simp] theorem State.setRd_btnCode (c : BitVec 7) : (s.setRd c).btnCode = s.btnCode := rfl
@[simp] theorem State.setRd_btnRem (c : BitVec 7) : (s.setRd c).btnRem = s.btnRem := rfl
@[simp] theorem State.setRd_outLow (c : BitVec 7) : (s.setRd c).outLow = s.outLow := rfl
@[simp] theorem State.setRd_inited (c : BitVec 7) : (s.setRd c).inited = s.inited := rfl
@[simp] theorem State.setRd_irqEn (c : BitVec 7) : (s.setRd c).irqEn = s.irqEn := rfl
@[simp] theorem State.setRd_clkQ (c : BitVec 7) : (s.setRd c).clkQ = s.clkQ := rfl
@[simp] theorem State.setRd_latchQ (c : BitVec 7) : (s.setRd c).latchQ = s.latchQ := rfl
@[simp] theorem State.setRd_digit (c : BitVec 7) : (s.setRd c).digit = s.digit := rfl
@[simp] theorem State.setRd_ledPub (c : BitVec 7) : (s.setRd c).ledPub = s.ledPub := rfl
@[simp] theorem State.setRd_ledTent (c : BitVec 7) : (s.setRd c).ledTent = s.ledTent := rfl
@[simp] theorem State.setRd_cfg (c : BitVec 7) : (s.setRd c).cfg = s.cfg := rfl
@[simp] theorem State.setRd_stream (c : BitVec 7) : (s.setRd c).stream = s.stream := rfl
@[simp] theorem State.setRd_answer (c : BitVec 7) : (s.setRd c).answer = s.answer := rfl

/-! ### setRequest -/

@[simp] theorem State.setRequest_acc (code : Word) (n : BitVec 8) : (s.setRequest code n).acc = s.acc := rfl
@[simp] theorem State.setRequest_cnt (code : Word) (n : BitVec 8) : (s.setRequest code n).cnt = s.cnt := rfl
@[simp] theorem State.setRequest_mem (code : Word) (n : BitVec 8) : (s.setRequest code n).mem = s.mem := rfl
@[simp] theorem State.setRequest_wr (code : Word) (n : BitVec 8) : (s.setRequest code n).wr = s.wr := rfl
@[simp] theorem State.setRequest_rd (code : Word) (n : BitVec 8) : (s.setRequest code n).rd = s.rd := rfl
@[simp] theorem State.setRequest_btnCode (code : Word) (n : BitVec 8) : (s.setRequest code n).btnCode = code := rfl
@[simp] theorem State.setRequest_btnRem (code : Word) (n : BitVec 8) : (s.setRequest code n).btnRem = n := rfl
@[simp] theorem State.setRequest_outLow (code : Word) (n : BitVec 8) : (s.setRequest code n).outLow = s.outLow := rfl
@[simp] theorem State.setRequest_inited (code : Word) (n : BitVec 8) : (s.setRequest code n).inited = s.inited := rfl
@[simp] theorem State.setRequest_irqEn (code : Word) (n : BitVec 8) : (s.setRequest code n).irqEn = s.irqEn := rfl
@[simp] theorem State.setRequest_clkQ (code : Word) (n : BitVec 8) : (s.setRequest code n).clkQ = s.clkQ := rfl
@[simp] theorem State.setRequest_latchQ (code : Word) (n : BitVec 8) : (s.setRequest code n).latchQ = s.latchQ := rfl
@[simp] theorem State.setRequest_digit (code : Word) (n : BitVec 8) : (s.setRequest code n).digit = s.digit := rfl
@[simp] theorem State.setRequest_ledPub (code : Word) (n : BitVec 8) : (s.setRequest code n).ledPub = s.ledPub := rfl
@[simp] theorem State.setRequest_ledTent (code : Word) (n : BitVec 8) : (s.setRequest code n).ledTent = s.ledTent := rfl
@[simp] theorem State.setRequest_cfg (code : Word) (n : BitVec 8) : (s.setRequest code n).cfg = s.cfg := rfl
@[simp] theorem State.setRequest_stream (code : Word) (n : BitVec 8) : (s.setRequest code n).stream = s.stream := rfl
@[simp] theorem State.setRequest_answer (code : Word) (n : BitVec 8) : (s.setRequest code n).answer = s.answer := rfl

/-! ### setLine -/

@[simp] theorem State.setLine_acc (low : Bool) (n : BitVec 8) : (s.setLine low n).acc = s.acc := rfl
@[simp] theorem State.setLine_cnt (low : Bool) (n : BitVec 8) : (s.setLine low n).cnt = s.cnt := rfl
@[simp] theorem State.setLine_mem (low : Bool) (n : BitVec 8) : (s.setLine low n).mem = s.mem := rfl
@[simp] theorem State.setLine_wr (low : Bool) (n : BitVec 8) : (s.setLine low n).wr = s.wr := rfl
@[simp] theorem State.setLine_rd (low : Bool) (n : BitVec 8) : (s.setLine low n).rd = s.rd := rfl
@[simp] theorem State.setLine_btnCode (low : Bool) (n : BitVec 8) : (s.setLine low n).btnCode = s.btnCode := rfl
@[simp] theorem State.setLine_btnRem (low : Bool) (n : BitVec 8) : (s.setLine low n).btnRem = n := rfl
@[simp] theorem State.setLine_outLow (low : Bool) (n : BitVec 8) : (s.setLine low n).outLow = low := rfl
@[simp] theorem State.setLine_inited (low : Bool) (n : BitVec 8) : (s.setLine low n).inited = s.inited := rfl
@[simp] theorem State.setLine_irqEn (low : Bool) (n : BitVec 8) : (s.setLine low n).irqEn = s.irqEn := rfl
@[simp] theorem State.setLine_clkQ (low : Bool) (n : BitVec 8) : (s.setLine low n).clkQ = s.clkQ := rfl
@[simp] theorem State.setLine_latchQ (low : Bool) (n : BitVec 8) : (s.setLine low n).latchQ = s.latchQ := rfl
@[simp] theorem State.setLine_digit (low : Bool) (n : BitVec 8) : (s.setLine low n).digit = s.digit := rfl
@[simp] theorem State.setLine_ledPub (low : Bool) (n : BitVec 8) : (s.setLine low n).ledPub = s.ledPub := rfl
@[simp] theorem State.setLine_ledTent (low : Bool) (n : BitVec 8) : (s.setLine low n).ledTent = s.ledTent := rfl
@[simp] theorem State.setLine_cfg (low : Bool) (n : BitVec 8) : (s.setLine low n).cfg = s.cfg := rfl
@[simp] theorem State.setLine_stream (low : Bool) (n : BitVec 8) : (s.setLine low n).stream = s.stream := rfl
@[simp] theorem State.setLine_answer (low : Bool) (n : BitVec 8) : (s.setLine low n).answer = s.answer := rfl

/-! ### setLifecycle -/

@[simp] theorem State.setLifecycle_acc (x y : Bool) : (s.setLifecycle x y).acc = s.acc := rfl
@[simp] theorem State.setLifecycle_cnt (x y : Bool) : (s.setLifecycle x y).cnt = s.cnt := rfl
@[simp] theorem State.setLifecycle_mem (x y : Bool) : (s.setLifecycle x y).mem = s.mem := rfl
@[simp] theorem State.setLifecycle_wr (x y : Bool) : (s.setLifecycle x y).wr = s.wr := rfl
@[simp] theorem State.setLifecycle_rd (x y : Bool) : (s.setLifecycle x y).rd = s.rd := rfl
@[simp] theorem State.setLifecycle_btnCode (x y : Bool) : (s.setLifecycle x y).btnCode = s.btnCode := rfl
@[simp] theorem State.setLifecycle_btnRem (x y : Bool) : (s.setLifecycle x y).btnRem = s.btnRem := rfl
@[simp] theorem State.setLifecycle_outLow (x y : Bool) : (s.setLifecycle x y).outLow = s.outLow := rfl
@[simp] theorem State.setLifecycle_inited (x y : Bool) : (s.setLifecycle x y).inited = x := rfl
@[simp] theorem State.setLifecycle_irqEn (x y : Bool) : (s.setLifecycle x y).irqEn = y := rfl
@[simp] theorem State.setLifecycle_clkQ (x y : Bool) : (s.setLifecycle x y).clkQ = s.clkQ := rfl
@[simp] theorem State.setLifecycle_latchQ (x y : Bool) : (s.setLifecycle x y).latchQ = s.latchQ := rfl
@[simp] theorem State.setLifecycle_digit (x y : Bool) : (s.setLifecycle x y).digit = s.digit := rfl
@[simp] theorem State.setLifecycle_ledPub (x y : Bool) : (s.setLifecycle x y).ledPub = s.ledPub := rfl
@[simp] theorem State.setLifecycle_ledTent (x y : Bool) : (s.setLifecycle x y).ledTent = s.ledTent := rfl
@[simp] theorem State.setLifecycle_cfg (x y : Bool) : (s.setLifecycle x y).cfg = s.cfg := rfl
@[simp] theorem State.setLifecycle_stream (x y : Bool) : (s.setLifecycle x y).stream = s.stream := rfl
@[simp] theorem State.setLifecycle_answer (x y : Bool) : (s.setLifecycle x y).answer = s.answer := rfl

/-! ### setLevels -/

@[simp] theorem State.setLevels_acc (c l : Bool) : (s.setLevels c l).acc = s.acc := rfl
@[simp] theorem State.setLevels_cnt (c l : Bool) : (s.setLevels c l).cnt = s.cnt := rfl
@[simp] theorem State.setLevels_mem (c l : Bool) : (s.setLevels c l).mem = s.mem := rfl
@[simp] theorem State.setLevels_wr (c l : Bool) : (s.setLevels c l).wr = s.wr := rfl
@[simp] theorem State.setLevels_rd (c l : Bool) : (s.setLevels c l).rd = s.rd := rfl
@[simp] theorem State.setLevels_btnCode (c l : Bool) : (s.setLevels c l).btnCode = s.btnCode := rfl
@[simp] theorem State.setLevels_btnRem (c l : Bool) : (s.setLevels c l).btnRem = s.btnRem := rfl
@[simp] theorem State.setLevels_outLow (c l : Bool) : (s.setLevels c l).outLow = s.outLow := rfl
@[simp] theorem State.setLevels_inited (c l : Bool) : (s.setLevels c l).inited = s.inited := rfl
@[simp] theorem State.setLevels_irqEn (c l : Bool) : (s.setLevels c l).irqEn = s.irqEn := rfl
@[simp] theorem State.setLevels_clkQ (c l : Bool) : (s.setLevels c l).clkQ = c := rfl
@[simp] theorem State.setLevels_latchQ (c l : Bool) : (s.setLevels c l).latchQ = l := rfl
@[simp] theorem State.setLevels_digit (c l : Bool) : (s.setLevels c l).digit = s.digit := rfl
@[simp] theorem State.setLevels_ledPub (c l : Bool) : (s.setLevels c l).ledPub = s.ledPub := rfl
@[simp] theorem State.setLevels_ledTent (c l : Bool) : (s.setLevels c l).ledTent = s.ledTent := rfl
@[simp] theorem State.setLevels_cfg (c l : Bool) : (s.setLevels c l).cfg = s.cfg := rfl
@[simp] theorem State.setLevels_stream (c l : Bool) : (s.setLevels c l).stream = s.stream := rfl
@[simp] theorem State.setLevels_answer (c l : Bool) : (s.setLevels c l).answer = s.answer := rfl

/-! ### setDigits -/

@[simp] theorem State.setDigits_acc (d : Vector Glyph 4) : (s.setDigits d).acc = s.acc := rfl
@[simp] theorem State.setDigits_cnt (d : Vector Glyph 4) : (s.setDigits d).cnt = s.cnt := rfl
@[simp] theorem State.setDigits_mem (d : Vector Glyph 4) : (s.setDigits d).mem = s.mem := rfl
@[simp] theorem State.setDigits_wr (d : Vector Glyph 4) : (s.setDigits d).wr = s.wr := rfl
@[simp] theorem State.setDigits_rd (d : Vector Glyph 4) : (s.setDigits d).rd = s.rd := rfl
@[simp] theorem State.setDigits_btnCode (d : Vector Glyph 4) : (s.setDigits d).btnCode = s.btnCode := rfl
@[simp] theorem State.setDigits_btnRem (d : Vector Glyph 4) : (s.setDigits d).btnRem = s.btnRem := rfl
@[simp] theorem State.setDigits_outLow (d : Vector Glyph 4) : (s.setDigits d).outLow = s.outLow := rfl
@[simp] theorem State.setDigits_inited (d : Vector Glyph 4) : (s.setDigits d).inited = s.inited := rfl
@[simp] theorem State.setDigits_irqEn (d : Vector Glyph 4) : (s.setDigits d).irqEn = s.irqEn := rfl
@[simp] theorem State.setDigits_clkQ (d : Vector Glyph 4) : (s.setDigits d).clkQ = s.clkQ := rfl
@[simp] theorem State.setDigits_latchQ (d : Vector Glyph 4) : (s.setDigits d).latchQ = s.latchQ := rfl
@[simp] theorem State.setDigits_digit (d : Vector Glyph 4) : (s.setDigits d).digit = d := rfl
@[simp] theorem State.setDigits_ledPub (d : Vector Glyph 4) : (s.setDigits d).ledPub = s.ledPub := rfl
@[simp] theorem State.setDigits_ledTent (d : Vector Glyph 4) : (s.setDigits d).ledTent = s.ledTent := rfl
@[simp] theorem State.setDigits_cfg (d : Vector Glyph 4) : (s.setDigits d).cfg = s.cfg := rfl
@[simp] theorem State.setDigits_stream (d : Vector Glyph 4) : (s.setDigits d).stream = s.stream := rfl
@[simp] theorem State.setDigits_answer (d : Vector Glyph 4) : (s.setDigits d).answer = s.answer := rfl

/-! ### setLeds -/

@[simp] theorem State.setLeds_acc (tent pub : BitVec 5) : (s.setLeds tent pub).acc = s.acc := rfl
@[simp] theorem State.setLeds_cnt (tent pub : BitVec 5) : (s.setLeds tent pub).cnt = s.cnt := rfl
@[simp] theorem State.setLeds_mem (tent pub : BitVec 5) : (s.setLeds tent pub).mem = s.mem := rfl
@[simp] theorem State.setLeds_wr (tent pub : BitVec 5) : (s.setLeds tent pub).wr = s.wr := rfl
@[simp] theorem State.setLeds_rd (tent pub : BitVec 5) : (s.setLeds tent pub).rd = s.rd := rfl
@[simp] theorem State.setLeds_btnCode (tent pub : BitVec 5) : (s.setLeds tent pub).btnCode = s.btnCode := rfl
@[simp] theorem State.setLeds_btnRem (tent pub : BitVec 5) : (s.setLeds tent pub).btnRem = s.btnRem := rfl
@[simp] theorem State.setLeds_outLow (tent pub : BitVec 5) : (s.setLeds tent pub).outLow = s.outLow := rfl
@[simp] theorem State.setLeds_inited (tent pub : BitVec 5) : (s.setLeds tent pub).inited = s.inited := rfl
@[simp] theorem State.setLeds_irqEn (tent pub : BitVec 5) : (s.setLeds tent pub).irqEn = s.irqEn := rfl
@[simp] theorem State.setLeds_clkQ (tent pub : BitVec 5) : (s.setLeds tent pub).clkQ = s.clkQ := rfl
@[simp] theorem State.setLeds_latchQ (tent pub : BitVec 5) : (s.setLeds tent pub).latchQ = s.latchQ := rfl
@[simp] theorem State.setLeds_digit (tent pub : BitVec 5) : (s.setLeds tent pub).digit = s.digit := rfl
@[simp] theorem State.setLeds_ledPub (tent pub : BitVec 5) : (s.setLeds tent pub).ledPub = pub := rfl
@[simp] theorem State.setLeds_ledTent (tent pub : BitVec 5) : (s.setLeds tent pub).ledTent = tent := rfl
@[simp] theorem State.setLeds_cfg (tent pub : BitVec 5) : (s.setLeds tent pub).cfg = s.cfg := rfl
@[simp] theorem State.setLeds_stream (tent pub : BitVec 5) : (s.setLeds tent pub).stream = s.stream := rfl
@[simp] theorem State.setLeds_answer (tent pub : BitVec 5) : (s.setLeds tent pub).answer = s.answer := rfl

/-! ### reply -/

@[simp] theorem State.reply_acc (a : Answer) : (s.reply a).acc = s.acc := rfl
@[simp] theorem State.reply_cnt (a : Answer) : (s.reply a).cnt = s.cnt := rfl
@[simp] theorem State.reply_mem (a : Answer) : (s.reply a).mem = s.mem := rfl
@[simp] theorem State.reply_wr (a : Answer) : (s.reply a).wr = s.wr := rfl
@[simp] theorem State.reply_rd (a : Answer) : (s.reply a).rd = s.rd := rfl
@[simp] theorem State.reply_btnCode (a : Answer) : (s.reply a).btnCode = s.btnCode := rfl
@[simp] theorem State.reply_btnRem (a : Answer) : (s.reply a).btnRem = s.btnRem := rfl
@[simp] theorem State.reply_outLow (a : Answer) : (s.reply a).outLow = s.outLow := rfl
@[simp] theorem State.reply_inited (a : Answer) : (s.reply a).inited = s.inited := rfl
@[simp] theorem State.reply_irqEn (a : Answer) : (s.reply a).irqEn = s.irqEn := rfl
@[simp] theorem State.reply_clkQ (a : Answer) : (s.reply a).clkQ = s.clkQ := rfl
@[simp] theorem State.reply_latchQ (a : Answer) : (s.reply a).latchQ = s.latchQ := rfl
@[simp] theorem State.reply_digit (a : Answer) : (s.reply a).digit = s.digit := rfl
@[simp] theorem State.reply_ledPub (a : Answer) : (s.reply a).ledPub = s.ledPub := rfl
@[simp] theorem State.reply_ledTent (a : Answer) : (s.reply a).ledTent = s.ledTent := rfl
@[simp] theorem State.reply_cfg (a : Answer) : (s.reply a).cfg = s.cfg := rfl
@[simp] theorem State.reply_stream (a : Answer) : (s.reply a).stream = s.stream := rfl
@[simp] theorem State.reply_answer (a : Answer) : (s.reply a).answer = a := rfl

/-! ### setStream -/

@[simp] theorem State.setStream_acc (l : List OpWord) : (s.setStream l).acc = s.acc := rfl
@[simp] theorem State.setStream_cnt (l : List OpWord) : (s.setStream l).cnt = s.cnt := rfl
@[simp] theorem State.setStream_mem (l : List OpWord) : (s.setStream l).mem = s.mem := rfl
@[simp] theorem State.setStream_wr (l : List OpWord) : (s.setStream l).wr = s.wr := rfl
@[simp] theorem State.setStream_rd (l : List OpWord) : (s.setStream l).rd = s.rd := rfl
@[simp] theorem State.setStream_btnCode (l : List OpWord) : (s.setStream l).btnCode = s.btnCode := rfl
@[simp] theorem State.setStream_btnRem (l : List OpWord) : (s.setStream l).btnRem = s.btnRem := rfl
@[simp] theorem State.setStream_outLow (l : List OpWord) : (s.setStream l).outLow = s.outLow := rfl
@[simp] theorem State.setStream_inited (l : List OpWord) : (s.setStream l).inited = s.inited := rfl
@[simp] theorem State.setStream_irqEn (l : List OpWord) : (s.setStream l).irqEn = s.irqEn := rfl
@[simp] theorem State.setStream_clkQ (l : List OpWord) : (s.setStream l).clkQ = s.clkQ := rfl
@[simp] theorem State.setStream_latchQ (l : List OpWord) : (s.setStream l).latchQ = s.latchQ := rfl
@[simp] theorem State.setStream_digit (l : List OpWord) : (s.setStream l).digit = s.digit := rfl
@[simp] theorem State.setStream_ledPub (l : List OpWord) : (s.setStream l).ledPub = s.ledPub := rfl
@[simp] theorem State.setStream_ledTent (l : List OpWord) : (s.setStream l).ledTent = s.ledTent := rfl
@[simp] theorem State.setStream_cfg (l : List OpWord) : (s.setStream l).cfg = s.cfg := rfl
@[simp] theorem State.setStream_stream (l : List OpWord) : (s.setStream l).stream = l := rfl
@[simp] theorem State.setStream_answer (l : List OpWord) : (s.setStream l).answer = s.answer := rfl

end Sys2Proof.Machine
end

