-- ==== Sys2Proof/Laws/Ops.lean ====
section
/-! SUPPORT. For each shared operation of Machine/Ops.lean, once, everything it can do. -/

namespace Sys2Proof.Machine

/-- Shift-in is doubling plus the new bit, mod 2^16 (R43). -/
theorem shiftIn_eq (a : Word) (d : Bool) : shiftIn a d = BitVec.ofNat 16 (2 * a.toNat + d.toNat) := by
  apply BitVec.eq_of_toNat_eq
  simp only [shiftIn, BitVec.toNat_append, BitVec.extractLsb'_toNat, Nat.shiftRight_zero, BitVec.toNat_ofNat,
    BitVec.toNat_ofBool]
  rw [← Nat.shiftLeft_add_eq_or_of_lt (by cases d <;> decide : d.toNat < 2 ^ 1), Nat.shiftLeft_eq]
  have : d.toNat ≤ 1 := by cases d <;> decide
  omega

/-- Everything a taken interrupt can do. -/
theorem takeInterrupt_cases (f : State → State) (s : State) :
    (s.irqEn = true ∧ takeInterrupt f s = f s) ∨ (s.irqEn = false ∧ takeInterrupt f s = s) := by
  cases h : s.irqEn <;> simp [takeInterrupt, h]

@[simp] theorem takeInterrupt_on {f : State → State} {s : State} (h : s.irqEn = true) : takeInterrupt f s = f s := by
  simp [takeInterrupt, h]

@[simp] theorem takeInterrupt_off {f : State → State} {s : State} (h : s.irqEn = false) : takeInterrupt f s = s := by
  simp [takeInterrupt, h]

/-! ### PUSH -/

/-- PUSH in one record: the read cursor moves only when the buffer is full (R110). -/
theorem push_eq (v : Word) (s : State) :
    push v s = { s with
      mem := s.mem.write (cellIndex s.wr) v
      wr := s.wr + 1
      rd := if fill s = 64 then s.rd + 1 else s.rd } := by
  unfold push
  split
  · rename_i h; simp [ringWrite, nextCursor, State.setMem, State.setRd, State.setWr]
  · rename_i h; simp [ringWrite, nextCursor, State.setMem, State.setWr]

/-! ### SEQ_STEP -/

/-- Everything SEQ_STEP can do: release, drive, nothing (R133). -/
theorem seqStep_cases (a : Word) (s : State) :
    (s.outLow = true ∧ seqStep a s = { s with outLow := false }) ∨
    (s.outLow = false ∧ s.btnRem ≠ 0 ∧ a = s.btnCode ∧
      seqStep a s = { s with outLow := true, btnRem := s.btnRem - 1 }) ∨
    (s.outLow = false ∧ (s.btnRem = 0 ∨ a ≠ s.btnCode) ∧ seqStep a s = s) := by
  unfold seqStep
  cases h : s.outLow
  · by_cases h2 : s.btnRem ≠ 0 ∧ a = s.btnCode
    · exact .inr (.inl ⟨rfl, h2.1, h2.2, by rw [if_neg (by decide), if_pos h2]; rfl⟩)
    · refine .inr (.inr ⟨rfl, ?_, by rw [if_neg (by decide), if_neg h2]⟩)
      by_cases h3 : s.btnRem = 0
      · exact .inl h3
      · exact .inr fun h4 => h2 ⟨h3, h4⟩
  · exact .inl ⟨rfl, by simp [State.setLine]⟩

/-- SEQ_STEP writes the line and the count and nothing else (R133, corner case 6). -/
theorem seqStep_frame (a : Word) (s : State) :
    seqStep a s = { s with outLow := (seqStep a s).outLow, btnRem := (seqStep a s).btnRem } := by
  rcases seqStep_cases a s with ⟨_, h⟩ | ⟨_, _, _, h⟩ | ⟨_, _, h⟩ <;> rw [h]

/-- The line and the count after SEQ_STEP depend on the line, the count and the code alone. -/
theorem seqStep_congr (a : Word) {s t : State} (hl : t.outLow = s.outLow) (hr : t.btnRem = s.btnRem)
    (hc : t.btnCode = s.btnCode) :
    (seqStep a t).outLow = (seqStep a s).outLow ∧ (seqStep a t).btnRem = (seqStep a s).btnRem := by
  simp only [seqStep, hl, hr, hc]
  split
  · exact ⟨rfl, rfl⟩
  · split
    · exact ⟨rfl, rfl⟩
    · exact ⟨hl, hr⟩

/-! ### The handlers -/

theorem clkHandler_eq (d : Bool) (s : State) :
    clkHandler d s = { s with acc := shiftIn s.acc d, cnt := satIncr s.cnt } := rfl

/-- LATCH in one record (R92). -/
theorem latchHandler_eq (s : State) :
    latchHandler s = { s with
      mem := if s.cnt = 16 then s.mem.write (cellIndex s.wr) s.acc else s.mem
      wr := if s.cnt = 16 then s.wr + 1 else s.wr
      rd := if s.cnt = 16 ∧ fill s = 64 then s.rd + 1 else s.rd
      outLow := (seqStep s.acc s).outLow
      btnRem := (seqStep s.acc s).btnRem
      acc := 0
      cnt := 0 } := by
  simp only [latchHandler, returnFromHandler, State.setCapture]
  by_cases h : s.cnt = 16
  · have hc := seqStep_congr s.acc (s := s) (t := push s.acc s) (by simp [push_eq]) (by simp [push_eq]) (by simp [push_eq])
    simp only [h, if_true, true_and]
    rw [seqStep_frame s.acc (push s.acc s), hc.1, hc.2]
    simp [push_eq]
  · simp only [h, if_false, false_and]
    rw [seqStep_frame s.acc s]

/-- LATCH does not look at RING: with any other contents it does the same, and writes the same word or none. -/
theorem latchHandler_setMem (m : Memory) (s : State) : latchHandler (s.setMem m) =
    (latchHandler s).setMem (if s.cnt = 16 then m.write (cellIndex s.wr) s.acc else m) := by
  have e := seqStep_congr s.acc (s := s) (t := s.setMem m) rfl rfl rfl
  rw [latchHandler_eq, latchHandler_eq]
  simp only [State.setMem_acc, e.1, e.2]
  rfl

/-- CLK does not look at RING. -/
theorem clkHandler_setMem (d : Bool) (m : Memory) (s : State) : clkHandler d (s.setMem m) = (clkHandler d s).setMem m := rfl

/-- A handler leaves the two handlers enabled (R205). -/
@[simp] theorem clkHandler_irqEn (d : Bool) (s : State) : (clkHandler d s).irqEn = s.irqEn := rfl

@[simp] theorem latchHandler_irqEn (s : State) : (latchHandler s).irqEn = s.irqEn := by rw [latchHandler_eq]

/-! ### Decode assist -/

/-- Everything a DEC operation can answer: its next state, or the refusal of a block without DEC (R150). -/
theorem withDecode_cases (s n : State) :
    (s.cfg.cfg.hasDecode = true ∧ withDecode s n = .next n) ∨
    (s.cfg.cfg.hasDecode = false ∧ withDecode s n = .refused .noDecodeUnit) := by
  cases h : s.cfg.cfg.hasDecode <;> simp [withDecode, h]

theorem withDecode_next {s n t : State} (h : withDecode s n = .next t) : s.cfg.cfg.hasDecode = true ∧ t = n := by
  rcases withDecode_cases s n with ⟨hd, he⟩ | ⟨hd, he⟩
  · rw [he] at h; exact ⟨hd, (Host.Outcome.next.inj h).symm⟩
  · rw [he] at h; cases h

/-- The segment decode writes the DigitBuffer and nothing else (R155). -/
theorem segDecode_eq (p : BitVec 2) (w : Word) (s : State) :
    segDecode p w s = { s with digit := newDigits (segGlyph s w) p s.digit } := rfl

theorem newDigits_some (g : Glyph) (p : BitVec 2) (d : Vector Glyph 4) :
    newDigits (some g) p d = d.set p.toNat g p.isLt := rfl

theorem newDigits_none (p : BitVec 2) (d : Vector Glyph 4) : newDigits none p d = d := rfl

/-- The LED debounce writes the two LED sets and nothing else (R159). -/
theorem ledDebounce_eq (w : Word) (s : State) :
    ledDebounce w s = { s with
      ledTent := newTent s.cfg.cfg w s.ledTent s.ledPub
      ledPub := newPub s.cfg.cfg w s.ledTent s.ledPub } := rfl

/-! ### The execution -/

@[simp] theorem fetch_nil {s : State} (h : s.stream = []) : fetch s = none := by simp [fetch, h]

@[simp] theorem fetch_cons {s : State} {w : OpWord} {rest : List OpWord} (h : s.stream = w :: rest) :
    fetch s = some (w, { s with stream := rest }) := by
  simp [fetch, h, State.setStream]

end Sys2Proof.Machine
end

