-- ==== Sys2Proof/Laws/Exec.lean ====
section
/-! SUPPORT. What each operation answers, as one equation over the shared operations, for proofs to cite instead of unfolding
`exec`; and what a completed DEC operation or INIT says of the state before it. -/

namespace Sys2Proof.Machine

theorem exec_clk (d : Bool) (s : State) : exec (.clk d) s = .next (takeInterrupt (clkHandler d) s) := rfl
theorem exec_latch (s : State) : exec .latch s = .next (takeInterrupt latchHandler s) := rfl
theorem exec_pop (s : State) : exec .pop s = .next (takeOldest s) := rfl
theorem exec_btnw (code : Word) (n : BitVec 8) (s : State) : exec (.btnw code n) s = .next (submit code n s) := rfl
theorem exec_stat (s : State) : exec .stat s = .next { s with answer := .stat (statusWord s) } := rfl
theorem exec_disable (s : State) : exec .disable s = .next { s with irqEn := false } := rfl
theorem exec_sample (c l d : Bool) (s : State) :
    exec (.sample c l d) s = .next (if s.irqEn then edgeDetect c l d s else s) := rfl
theorem exec_classify (w : Word) (s : State) :
    exec (.classify w) s = withDecode s { s with answer := .classify (classify s.cfg.cfg w).code } := rfl
theorem exec_segdec (p : BitVec 2) (w : Word) (s : State) : exec (.segdec p w) s =
    withDecode s { segDecode p w s with answer := .segdec (segGlyph s w).isSome (frameDone p) } := rfl
theorem exec_leddec (w : Word) (s : State) : exec (.leddec w) s =
    withDecode s { ledDebounce w s with answer := .leddec (ledEvents w s) } := rfl
theorem exec_decode (w : Word) (s : State) : exec (.decode w) s = withDecode s (route w s) := rfl
theorem exec_getdig (s : State) : exec .getdig s = withDecode s { s with answer := .getdig (digitsWord s.digit) } := rfl
theorem exec_getled (s : State) :
    exec .getled s = withDecode s { s with answer := .getled (ledFlags s.ledPub) s.ledPub } := rfl

theorem exec_clk_on {s : State} (d : Bool) (h : s.irqEn = true) : exec (.clk d) s = .next (clkHandler d s) := by
  rw [exec_clk, takeInterrupt_on h]
theorem exec_latch_on {s : State} (h : s.irqEn = true) : exec .latch s = .next (latchHandler s) := by
  rw [exec_latch, takeInterrupt_on h]

/-- Everything INIT can answer (R180). -/
theorem exec_init_cases (c l : Bool) (s : State) :
    (s.inited = false ∧ exec (.init c l) s = .next { s with
      acc := 0x0000, cnt := 0, clkQ := c, latchQ := l, inited := true, irqEn := true }) ∨
    (s.inited = true ∧ exec (.init c l) s = .refused .secondInit) := by
  cases h : s.inited
  · exact .inl ⟨rfl, by simp [exec, execInit, h, State.setCapture, State.setLevels, State.setLifecycle]⟩
  · exact .inr ⟨rfl, by simp [exec, execInit, h]⟩

/-- Everything POP can do: answer valid = 0, or return the oldest and advance (R113). -/
theorem takeOldest_cases (s : State) :
    (fill s = 0 ∧ takeOldest s = { s with answer := .pop false 0x0000 }) ∨
    (fill s ≠ 0 ∧ takeOldest s = { s with rd := s.rd + 1, answer := .pop true (ringRead s (cellIndex s.rd)) }) := by
  by_cases h : fill s = 0
  · exact .inl ⟨h, by simp [takeOldest, h, State.reply]⟩
  · exact .inr ⟨h, by simp [takeOldest, h, State.reply, State.setRd, nextCursor]⟩

/-- Everything BTNW can do: refuse, or take the request (R130). -/
theorem submit_cases (code : Word) (n : BitVec 8) (s : State) :
    (busy s = true ∧ submit code n s = { s with answer := .btnw false }) ∨
    (busy s = false ∧ submit code n s = { s with btnCode := code, btnRem := n, answer := .btnw true }) := by
  cases h : busy s
  · exact .inr ⟨rfl, by simp [submit, h, State.reply, State.setRequest]⟩
  · exact .inl ⟨rfl, by simp [submit, h, State.reply]⟩

/-- Everything the edge detector can do: the four combinations of edges, and always the levels (R94). -/
theorem edgeDetect_eq (c l d : Bool) (s : State) : edgeDetect c l d s =
    let s1 := if activeEdge s.cfg.cfg.clkActive s.clkQ c then takeInterrupt (clkHandler d) s else s
    let s2 := if activeEdge s.cfg.cfg.latchActive s.latchQ l then takeInterrupt latchHandler s1 else s1
    { s2 with clkQ := c, latchQ := l } := rfl

/-- Everything SAMPLE can do in an enabled block: an optional CLK, then an optional LATCH, then the levels are kept (R94). -/
theorem edgeDetect_cases (c l d : Bool) {s : State} (h : s.irqEn = true) : ∃ s1 : State,
    ((s.clkQ ≠ c ∧ c = s.cfg.cfg.clkActive) ∧ s1 = clkHandler d s ∨
      ¬ (s.clkQ ≠ c ∧ c = s.cfg.cfg.clkActive) ∧ s1 = s) ∧
    ((s.latchQ ≠ l ∧ l = s.cfg.cfg.latchActive) ∧ edgeDetect c l d s = { latchHandler s1 with clkQ := c, latchQ := l } ∨
      ¬ (s.latchQ ≠ l ∧ l = s.cfg.cfg.latchActive) ∧ edgeDetect c l d s = { s1 with clkQ := c, latchQ := l }) := by
  refine ⟨if activeEdge s.cfg.cfg.clkActive s.clkQ c then clkHandler d s else s, ?_, ?_⟩
  · by_cases hc : s.clkQ ≠ c ∧ c = s.cfg.cfg.clkActive
    · exact .inl ⟨hc, if_pos ((activeEdge_iff ..).2 hc)⟩
    · exact .inr ⟨hc, if_neg fun e => hc ((activeEdge_iff ..).1 e)⟩
  · have h1 : (if activeEdge s.cfg.cfg.clkActive s.clkQ c then clkHandler d s else s).irqEn = true := by
      split
      · exact h
      · exact h
    rw [edgeDetect_eq, takeInterrupt_on h]
    simp only [takeInterrupt_on h1]
    by_cases hl : s.latchQ ≠ l ∧ l = s.cfg.cfg.latchActive
    · exact .inl ⟨hl, by simp only [if_pos ((activeEdge_iff ..).2 hl)]⟩
    · exact .inr ⟨hl, by simp only [if_neg fun e => hl ((activeEdge_iff ..).1 e)]⟩

/-- The edge detector of an enabled block, the handlers in place (R94). -/
theorem edgeDetect_on (c l d : Bool) {s : State} (h : s.irqEn = true) : edgeDetect c l d s =
    let s1 := if activeEdge s.cfg.cfg.clkActive s.clkQ c then clkHandler d s else s
    { (if activeEdge s.cfg.cfg.latchActive s.latchQ l then latchHandler s1 else s1) with clkQ := c, latchQ := l } := by
  have h1 : (if activeEdge s.cfg.cfg.clkActive s.clkQ c then clkHandler d s else s).irqEn = true := by
    split <;> exact h
  rw [edgeDetect_eq, takeInterrupt_on h]
  simp only [takeInterrupt_on h1]

/-- Everything DECODE can do (R162), kind by kind: only the DigitBuffer, the LED sets and the answer can change. -/
theorem route_cases (w : Word) (s : State) :
    (classify s.cfg.cfg w = .echo ∧ route w s = { s with answer := .decode 1 false false 0 }) ∨
    (classify s.cfg.cfg w = .unknown ∧ route w s = { s with answer := .decode 0 false false 0 }) ∨
    (∃ p, classify s.cfg.cfg w = .digit p ∧ route w s = { s with
      digit := newDigits (segGlyph s w) p s.digit
      answer := .decode (1#1 ++ p) (segGlyph s w).isSome (frameDone p) 0 }) ∨
    (classify s.cfg.cfg w = .led ∧ route w s = { s with
      ledTent := newTent s.cfg.cfg w s.ledTent s.ledPub
      ledPub := newPub s.cfg.cfg w s.ledTent s.ledPub
      answer := .decode 2 false false (ledEvents w s) }) := by
  unfold route
  cases h : classify s.cfg.cfg w with
  | echo => exact .inl ⟨rfl, rfl⟩
  | unknown => exact .inr (.inl ⟨rfl, rfl⟩)
  | digit p => exact .inr (.inr (.inl ⟨p, rfl, rfl⟩))
  | led => exact .inr (.inr (.inr ⟨rfl, rfl⟩))

/-- DEC operations read the configuration and DEC's own state alone, and write DEC's own state and the answer alone: in two
states that agree on what they read they do the same (R150). -/
theorem exec_dec_local {i : Instr} {s s' t : State} (hi : usesDec i = true) (hc : s'.cfg = s.cfg) (hd : s'.digit = s.digit)
    (ht : s'.ledTent = s.ledTent) (hp : s'.ledPub = s.ledPub) (h : exec i s = .next t) :
    t = { s with digit := t.digit, ledTent := t.ledTent, ledPub := t.ledPub, answer := t.answer } ∧
    exec i s' = .next { s' with digit := t.digit, ledTent := t.ledTent, ledPub := t.ledPub, answer := t.answer } := by
  cases i with
  | clk _ => cases hi
  | latch => cases hi
  | pop => cases hi
  | btnw _ _ => cases hi
  | stat => cases hi
  | init _ _ => cases hi
  | disable => cases hi
  | sample _ _ _ => cases hi
  | classify w =>
    rw [exec_classify] at h ⊢
    obtain ⟨hd', rfl⟩ := withDecode_next h
    simp only [withDecode, hc, hd', hd, ht, hp, if_true, and_self]
  | segdec p w =>
    rw [exec_segdec] at h ⊢
    obtain ⟨hd', rfl⟩ := withDecode_next h
    simp only [withDecode, segDecode_eq, segGlyph, hc, hd', hd, ht, hp, if_true, and_self]
  | leddec w =>
    rw [exec_leddec] at h ⊢
    obtain ⟨hd', rfl⟩ := withDecode_next h
    simp only [withDecode, ledDebounce_eq, ledEvents, hc, hd', hd, ht, hp, if_true, and_self]
  | decode w =>
    rw [exec_decode] at h ⊢
    obtain ⟨hd', rfl⟩ := withDecode_next h
    simp only [withDecode, hc, hd', if_true]
    rcases route_cases w s with ⟨hk, e⟩ | ⟨hk, e⟩ | ⟨p, hk, e⟩ | ⟨hk, e⟩ <;>
      simp only [e] <;> simp only [route, hk, hc, hd, ht, hp, segDecode_eq, segGlyph, ledDebounce_eq, ledEvents, State.reply] <;>
      exact ⟨trivial, rfl⟩
  | getdig =>
    rw [exec_getdig] at h ⊢
    obtain ⟨hd', rfl⟩ := withDecode_next h
    simp only [withDecode, hc, hd', hd, ht, hp, if_true, and_self]
  | getled =>
    rw [exec_getled] at h ⊢
    obtain ⟨hd', rfl⟩ := withDecode_next h
    simp only [withDecode, hc, hd', hd, ht, hp, if_true, and_self]

/-- What a completed operation did, all operations together: a producer operation of a block whose handlers are not enabled,
the three handlers' entries, the five consumer operations outside DEC, and a DEC operation, which can change only DEC's
own state and the answer. -/
theorem exec_cases {i : Instr} {s t : State} (h : exec i s = .next t) :
  (t = s ∧ s.irqEn = false ∧ context i = .producer) ∨
  (∃ d, i = .clk d ∧ s.irqEn = true ∧ t = clkHandler d s) ∨
  (i = .latch ∧ s.irqEn = true ∧ t = latchHandler s) ∨
  (∃ c l d, i = .sample c l d ∧ s.irqEn = true ∧ t = edgeDetect c l d s) ∨
  (i = .pop ∧ t = takeOldest s) ∨ (∃ code n, i = .btnw code n ∧ t = submit code n s) ∨
  (i = .stat ∧ t = { s with answer := .stat (statusWord s) }) ∨
  (∃ c l, i = .init c l ∧ s.inited = false ∧ t = { s with
      acc := 0x0000, cnt := 0, clkQ := c, latchQ := l, inited := true, irqEn := true }) ∨
  (i = .disable ∧ t = { s with irqEn := false }) ∨
  (usesDec i = true ∧ s.cfg.cfg.hasDecode = true ∧ ∃ dg tent pub a,
      t = { s with digit := dg, ledTent := tent, ledPub := pub, answer := a }) := by
  have decFrame {i : Instr} (hi : usesDec i = true) (hd : s.cfg.cfg.hasDecode = true) (h : exec i s = .next t) {P : Prop} :
      P ∨ (usesDec i = true ∧ s.cfg.cfg.hasDecode = true ∧ ∃ dg tent pub a,
        t = { s with digit := dg, ledTent := tent, ledPub := pub, answer := a }) :=
    .inr ⟨hi, hd, _, _, _, _, (exec_dec_local hi rfl rfl rfl rfl h).1⟩
  cases i with
  | clk d =>
    rw [exec_clk] at h; cases h
    rcases takeInterrupt_cases (clkHandler d) s with ⟨he, h⟩ | ⟨he, h⟩ <;> rw [h]
    · exact .inr (.inl ⟨d, rfl, he, rfl⟩)
    · exact .inl ⟨rfl, he, rfl⟩
  | latch =>
    rw [exec_latch] at h; cases h
    rcases takeInterrupt_cases latchHandler s with ⟨he, h⟩ | ⟨he, h⟩ <;> rw [h]
    · exact .inr (.inr (.inl ⟨rfl, he, rfl⟩))
    · exact .inl ⟨rfl, he, rfl⟩
  | sample c l d =>
    rw [exec_sample] at h; cases h
    cases he : s.irqEn
    · exact .inl ⟨rfl, rfl, rfl⟩
    · exact .inr (.inr (.inr (.inl ⟨c, l, d, rfl, rfl, rfl⟩)))
  | pop => rw [exec_pop] at h; cases h; simp
  | btnw code n => rw [exec_btnw] at h; cases h; simp
  | stat => rw [exec_stat] at h; cases h; simp
  | init c l =>
    rcases exec_init_cases c l s with ⟨hi, he⟩ | ⟨hi, he⟩ <;> rw [he] at h <;> cases h
    simp [hi]
  | disable => rw [exec_disable] at h; cases h; simp
  | classify w => exact .inr (.inr (.inr (.inr (.inr (.inr (.inr (.inr (decFrame rfl (withDecode_next h).1 h))))))))
  | segdec p w => exact .inr (.inr (.inr (.inr (.inr (.inr (.inr (.inr (decFrame rfl (withDecode_next h).1 h))))))))
  | leddec w => exact .inr (.inr (.inr (.inr (.inr (.inr (.inr (.inr (decFrame rfl (withDecode_next h).1 h))))))))
  | decode w => exact .inr (.inr (.inr (.inr (.inr (.inr (.inr (.inr (decFrame rfl (withDecode_next h).1 h))))))))
  | getdig => exact .inr (.inr (.inr (.inr (.inr (.inr (.inr (.inr (decFrame rfl (withDecode_next h).1 h))))))))
  | getled => exact .inr (.inr (.inr (.inr (.inr (.inr (.inr (.inr (decFrame rfl (withDecode_next h).1 h))))))))

/-! ### The operations still to come do not matter -/

/-- A handler that does not look at the operations still to come does not look at them when it is taken as an interrupt. -/
theorem takeInterrupt_setStream {h : State → State} (l : List OpWord) (hh : ∀ s, h (s.setStream l) = (h s).setStream l)
    (s : State) : takeInterrupt h (s.setStream l) = (takeInterrupt h s).setStream l := by
  rcases takeInterrupt_cases h s with ⟨he, e⟩ | ⟨he, e⟩ <;> rw [e]
  · rw [takeInterrupt_on (by exact he), hh]
  · rw [takeInterrupt_off (by exact he)]

theorem clkHandler_setStream (d : Bool) (l : List OpWord) (s : State) :
    clkHandler d (s.setStream l) = (clkHandler d s).setStream l := rfl

theorem latchHandler_setStream (l : List OpWord) (s : State) :
    latchHandler (s.setStream l) = (latchHandler s).setStream l := by
  have e := seqStep_congr s.acc (s := s) (t := s.setStream l) rfl rfl rfl
  rw [latchHandler_eq, latchHandler_eq]
  simp only [State.setStream_acc, e.1, e.2]
  rfl

theorem edgeDetect_setStream (c k d : Bool) (l : List OpWord) (s : State) :
    edgeDetect c k d (s.setStream l) = (edgeDetect c k d s).setStream l := by
  have hc := takeInterrupt_setStream l (clkHandler_setStream d l) s
  simp only [edgeDetect_eq, State.setStream_cfg, State.setStream_clkQ, State.setStream_latchQ, hc]
  cases activeEdge s.cfg.cfg.clkActive s.clkQ c <;> cases activeEdge s.cfg.cfg.latchActive s.latchQ k <;>
    simp only [if_true, Bool.false_eq_true, if_false, takeInterrupt_setStream l (latchHandler_setStream l)] <;> rfl

/-- An operation does the same whatever operations are still to come, and leaves them as they are. -/
theorem exec_setStream {i : Instr} {s t : State} (l : List OpWord) (h : exec i s = .next t) :
    exec i (s.setStream l) = .next (t.setStream l) := by
  have dec (hi : usesDec i = true) : exec i (s.setStream l) = .next (t.setStream l) := by
    have e := exec_dec_local (s := s) (s' := s.setStream l) hi rfl rfl rfl rfl h
    rw [e.2]
    conv => rhs; rw [e.1]
    rfl
  cases i with
  | clk d =>
    rw [exec_clk] at h ⊢; cases h
    rw [takeInterrupt_setStream l (clkHandler_setStream d l)]
  | latch =>
    rw [exec_latch] at h ⊢; cases h
    rw [takeInterrupt_setStream l (latchHandler_setStream l)]
  | sample c k d =>
    rw [exec_sample] at h ⊢; cases h
    rw [State.setStream_irqEn, edgeDetect_setStream]
    cases s.irqEn <;> rfl
  | pop =>
    rw [exec_pop] at h ⊢; cases h
    rcases takeOldest_cases s with ⟨hf, e⟩ | ⟨hf, e⟩ <;> rw [e]
    · rw [takeOldest, if_pos (by exact hf)]; rfl
    · rw [takeOldest, if_neg (by exact hf)]; rfl
  | btnw code n =>
    rw [exec_btnw] at h ⊢; cases h
    rcases submit_cases code n s with ⟨hb, e⟩ | ⟨hb, e⟩ <;> rw [e]
    · rw [submit, if_pos (by exact hb)]; rfl
    · rw [submit, if_neg (by simpa using show busy (s.setStream l) = false from hb)]; rfl
  | stat => cases h; rfl
  | init c k =>
    rcases exec_init_cases c k s with ⟨hi, e⟩ | ⟨hi, e⟩ <;> rw [e] at h <;> cases h
    simp [exec, execInit, hi, State.setCapture, State.setLevels, State.setLifecycle, State.setStream]
  | disable => cases h; rfl
  | classify w => exact dec rfl
  | segdec p w => exact dec rfl
  | leddec w => exact dec rfl
  | decode w => exact dec rfl
  | getdig => exact dec rfl
  | getled => exact dec rfl

end Sys2Proof.Machine
end

