-- ==== Sys2Proof/Laws/PerInstr.lean ====
section
/-! SUPPORT. Statements made operation by operation. `EncodesRow`: the word the encoder writes is a word of the operation's own
row of spec/opcode_table.json. -/

namespace Sys2Proof.Laws

/-- The encoder's word for `i` belongs to the row of the opcode table that has `i`'s mnemonic (spec/30_encoding.md R74). -/
def EncodesRow.Statement (i : Instr) : Prop :=
  ∃ r ∈ opTable, r.mnemonic = i.mnemonic ∧ encode i &&& r.mask = r.pattern

/-- A word written from its fields belongs to a row when its fields do. -/
theorem ofFields_masked {o : BitVec 4} {n : BitVec 8} {imm : Word} {m p : OpWord} (ho : o &&& OpWord.op m = OpWord.op p)
    (hr : OpWord.rsv p = 0) (hn : n &&& OpWord.n m = OpWord.n p) (hi : imm &&& OpWord.imm m = OpWord.imm p) :
    OpWord.ofFields o n imm &&& m = p := by
  rw [OpWord.masked_iff, OpWord.op_ofFields, OpWord.rsv_ofFields, OpWord.n_ofFields, OpWord.imm_ofFields]
  exact ⟨ho, by rw [hr]; exact BitVec.zero_and, hn, hi⟩

theorem EncodesRow.clk (d : Bool) : EncodesRow.Statement (.clk d) :=
  ⟨⟨"CLK", 0x10000000, 0xFFFFFFFE⟩, by simp [opTable], rfl, by revert d; decide⟩
theorem EncodesRow.latch : EncodesRow.Statement .latch :=
  ⟨⟨"LATCH", 0x20000000, 0xFFFFFFFF⟩, by simp [opTable], rfl, by decide⟩
theorem EncodesRow.pop : EncodesRow.Statement .pop :=
  ⟨⟨"POP", 0x30000000, 0xFFFFFFFF⟩, by simp [opTable], rfl, by decide⟩
theorem EncodesRow.btnw (code : Word) (n : BitVec 8) : EncodesRow.Statement (.btnw code n) :=
  ⟨⟨"BTNW", 0x40000000, 0xFF000000⟩, by simp [opTable], rfl, ofFields_masked (by decide) (by decide) BitVec.and_zero BitVec.and_zero⟩
theorem EncodesRow.stat : EncodesRow.Statement .stat :=
  ⟨⟨"STAT", 0x50000000, 0xFFFFFFFF⟩, by simp [opTable], rfl, by decide⟩
theorem EncodesRow.init (c : Bool) (l : Bool) : EncodesRow.Statement (.init c l) :=
  ⟨⟨"INIT", 0x60000000, 0xFFFFFFFC⟩, by simp [opTable], rfl, by revert c l; decide⟩
theorem EncodesRow.disable : EncodesRow.Statement .disable :=
  ⟨⟨"DISABLE", 0x70000000, 0xFFFFFFFF⟩, by simp [opTable], rfl, by decide⟩
theorem EncodesRow.sample (c : Bool) (l : Bool) (d : Bool) : EncodesRow.Statement (.sample c l d) :=
  ⟨⟨"SAMPLE", 0x80000000, 0xFFFFFFF8⟩, by simp [opTable], rfl, by revert c l d; decide⟩
theorem EncodesRow.classify (w : Word) : EncodesRow.Statement (.classify w) :=
  ⟨⟨"CLASSIFY", 0x90000000, 0xFFFF0000⟩, by simp [opTable], rfl, ofFields_masked (by decide) (by decide) (by decide) BitVec.and_zero⟩
theorem EncodesRow.segdec (p : BitVec 2) (w : Word) : EncodesRow.Statement (.segdec p w) :=
  ⟨⟨"SEGDEC", 0xA0000000, 0xFFFC0000⟩, by simp [opTable], rfl, ofFields_masked (by decide) (by decide) (by revert p; decide) BitVec.and_zero⟩
theorem EncodesRow.leddec (w : Word) : EncodesRow.Statement (.leddec w) :=
  ⟨⟨"LEDDEC", 0xB0000000, 0xFFFF0000⟩, by simp [opTable], rfl, ofFields_masked (by decide) (by decide) (by decide) BitVec.and_zero⟩
theorem EncodesRow.decode (w : Word) : EncodesRow.Statement (.decode w) :=
  ⟨⟨"DECODE", 0xC0000000, 0xFFFF0000⟩, by simp [opTable], rfl, ofFields_masked (by decide) (by decide) (by decide) BitVec.and_zero⟩
theorem EncodesRow.getdig : EncodesRow.Statement .getdig :=
  ⟨⟨"GETDIG", 0xD0000000, 0xFFFFFFFF⟩, by simp [opTable], rfl, by decide⟩
theorem EncodesRow.getled : EncodesRow.Statement .getled :=
  ⟨⟨"GETLED", 0xE0000000, 0xFFFFFFFF⟩, by simp [opTable], rfl, by decide⟩

end Sys2Proof.Laws
end

