-- ==== Sys2Proof/Laws/Queue.lean ====
section
/-! SUPPORT. The abstract queue of spec/10_state.md R29 and what the ring operations do to it. -/

namespace Sys2Proof.Machine

/-- The sample at offset `k` from the oldest. -/
def sampleAt (s : State) (k : Nat) : Word := ringRead s ((s.rd.toNat + k) % 64)

theorem queue_eq (s : State) : queue s = (List.range (fill s)).map (sampleAt s) := rfl

@[simp] theorem queue_length (s : State) : (queue s).length = fill s := by simp [queue]

theorem fill_lt (s : State) : fill s < 128 := (s.wr - s.rd).isLt

theorem fill_eq_zero_iff (s : State) : fill s = 0 ↔ s.wr = s.rd := by
  unfold fill; constructor
  · intro h; bv_omega
  · intro h; simp [h]

/-- The queue depends on RING and the cursors alone. -/
theorem queue_congr {s t : State} (hm : t.mem = s.mem) (hw : t.wr = s.wr) (hr : t.rd = s.rd) : queue t = queue s := by
  simp only [queue, fill, ringRead, hm, hw, hr]

/-- The next cell to be written, as an offset from the oldest sample. -/
theorem cellIndex_wr (s : State) : cellIndex s.wr = (s.rd.toNat + fill s) % 64 := by
  rw [cellIndex_eq]; unfold fill; bv_omega

theorem fill_push (v : Word) (s : State) (h : fill s ≤ 64) :
    fill (push v s) = if fill s = 64 then 64 else fill s + 1 := by
  rw [push_eq]
  unfold fill at *
  split
  · bv_omega
  · bv_omega

theorem pushQueue_full (s : State) (v : Word) (h : fill s = 64) : pushQueue (queue s) v = (queue s).tail ++ [v] := by
  simp [pushQueue, h]

theorem pushQueue_room (s : State) (v : Word) (h : fill s ≠ 64) : pushQueue (queue s) v = queue s ++ [v] := by
  simp [pushQueue, h]

/-- The samples after PUSH, by their offset: the new one last, the others moved down by one where the oldest was dropped. -/
theorem sampleAt_push (v : Word) (s : State) (h : fill s ≤ 64) (k : Nat) (hk : k < fill (push v s)) :
    sampleAt (push v s) k =
      if k + 1 = fill (push v s) then v else sampleAt s (if fill s = 64 then k + 1 else k) := by
  have hf := fill_push v s h
  have hr : (s.rd + 1).toNat = (s.rd.toNat + 1) % 128 := by bv_omega
  rw [hf] at hk ⊢
  by_cases h64 : fill s = 64
  · simp only [h64, if_true] at hk ⊢
    simp only [sampleAt, ringRead, push_eq, h64, if_true, cellIndex_wr, Memory.read_write, hr]
    by_cases he : k + 1 = 64
    · rw [if_pos (by omega), if_pos he]; rfl
    · rw [if_neg (by omega), if_neg he]
      have : ((s.rd.toNat + 1) % 128 + k) % 64 = (s.rd.toNat + (k + 1)) % 64 := by omega
      rw [this]
  · simp only [h64, if_false] at hk ⊢
    simp only [sampleAt, ringRead, push_eq, h64, if_false, cellIndex_wr, Memory.read_write]
    by_cases he : k = fill s
    · subst he; simp
    · rw [if_neg (by omega), if_neg (by omega)]

/-- PUSH on the abstract queue (R29, R110). -/
theorem queue_push (v : Word) (s : State) (h : fill s ≤ 64) : queue (push v s) = pushQueue (queue s) v := by
  have hf := fill_push v s h
  by_cases h64 : fill s = 64
  · rw [pushQueue_full s v h64]
    apply List.ext_getElem
    · simp [hf, h64]
    · intro k h1 h2
      rw [queue_length] at h1
      have := sampleAt_push v s h k h1
      rw [hf] at h1 this
      simp only [h64, if_true] at h1 this
      by_cases he : k + 1 = 64
      · rw [List.getElem_append_right (by simp [h64]; omega)]
        simp [queue_eq, this, he]
      · rw [List.getElem_append_left (by simp [h64]; omega)]
        simp [queue_eq, this, he]
  · rw [pushQueue_room s v h64]
    apply List.ext_getElem
    · simp [hf, h64]
    · intro k h1 h2
      rw [queue_length] at h1
      have := sampleAt_push v s h k h1
      rw [hf] at h1 this
      simp only [h64, if_false] at h1 this
      by_cases he : k = fill s
      · subst he
        rw [List.getElem_append_right (by simp)]
        simpa [queue_eq] using this
      · rw [List.getElem_append_left (by simp; omega)]
        simp [queue_eq, this, he]

/-- A non-empty queue is the oldest sample and the queue with the read cursor advanced (R113). -/
theorem queue_advance (s : State) (h : fill s ≠ 0) (a : Answer) :
    queue s = ringRead s (cellIndex s.rd) :: queue { s with rd := s.rd + 1, answer := a } := by
  have hf : fill { s with rd := s.rd + 1, answer := a } + 1 = fill s := by
    unfold fill at *; bv_omega
  have hr : (s.rd + 1).toNat = (s.rd.toNat + 1) % 128 := by bv_omega
  apply List.ext_getElem
  · rw [List.length_cons, queue_length, queue_length, hf]
  · intro k h1 h2
    cases k with
    | zero => simp [queue_eq, sampleAt, cellIndex_eq]
    | succ k =>
      simp only [queue_eq, List.getElem_map, List.getElem_range, List.getElem_cons_succ, sampleAt, ringRead, hr]
      have : ((s.rd.toNat + 1) % 128 + k) % 64 = (s.rd.toNat + (k + 1)) % 64 := by omega
      rw [this]

end Sys2Proof.Machine
end

