-- ==== Sys2Proof/Laws/Run.lean ====
section
/-! SUPPORT. Sequences of operations: how `performAll` goes on, stops and joins. -/

namespace Sys2Proof.Machine

@[simp] theorem andThen_next (s : State) (k : State → Host.Outcome State Fault Refusal) : andThen (.next s) k = k s := rfl

theorem andThen_next_iff {o : Host.Outcome State Fault Refusal} {k : State → Host.Outcome State Fault Refusal} {t : State} :
    andThen o k = .next t ↔ ∃ s, o = .next s ∧ k s = .next t := by
  cases o <;> simp [andThen]

@[simp] theorem performAll_nil (s : State) : performAll [] s = .next s := rfl

theorem performAll_cons (i : Instr) (rest : List Instr) (s : State) :
    performAll (i :: rest) s = andThen (exec i s) (performAll rest) := rfl

/-- Two lists of operations one after the other. -/
theorem performAll_append (a b : List Instr) (s : State) :
    performAll (a ++ b) s = andThen (performAll a s) (performAll b) := by
  induction a generalizing s with
  | nil => rfl
  | cons i rest ih =>
    simp only [List.cons_append, performAll_cons]
    cases exec i s with
    | next t => exact ih t
    | fault f => rfl
    | refused r => rfl

/-- A property that every operation of a list keeps holds after the list. -/
theorem performAll_keeps {P : State → Prop} {ops : List Instr} {s t : State}
    (hstep : ∀ i ∈ ops, ∀ s t, P s → exec i s = .next t → P t) (hs : P s) (h : performAll ops s = .next t) : P t := by
  induction ops generalizing s with
  | nil => cases h; exact hs
  | cons i rest ih =>
    rw [performAll_cons, andThen_next_iff] at h
    obtain ⟨u, hu, ht⟩ := h
    exact ih (fun j hj => hstep j (List.mem_cons_of_mem i hj)) (hstep i List.mem_cons_self s u hs hu) ht

/-- An operation that changes one state is no fence (R63). -/
theorem not_isFence {i : Instr} {s t : State} (h : exec i s = .next t) (hne : t ≠ s) : ¬ isFence i :=
  fun hf => hne (hf s t h)

/-! ### The wire (R53, R79) -/

/-- One more level on the wire: it becomes the low bit. -/
theorem wireValue_append (ds : List Bool) (d : Bool) : wireValue (ds ++ [d]) = 2 * wireValue ds + d.toNat := by
  simp [wireValue]

/-- The first level on the wire stands above all the others. -/
theorem wireValue_cons (d : Bool) (ds : List Bool) : wireValue (d :: ds) = d.toNat * 2 ^ ds.length + wireValue ds := by
  induction ds using List.reverseRecOn with
  | nil => simp [wireValue]
  | append_singleton ds e ih =>
    rw [← List.cons_append, wireValue_append, wireValue_append, ih, List.length_append, List.length_singleton, Nat.pow_succ]
    ring

theorem frameLevels_length (k : Nat) (v : Word) : (frameLevels k v).length = k := by simp [frameLevels]

theorem frameLevels_succ (k : Nat) (v : Word) : frameLevels (k + 1) v = v.getLsbD k :: frameLevels k v := by
  simp [frameLevels, List.range_succ_eq_map, Nat.sub_sub, Nat.add_comm]

/-- The levels FRAMEN sends are the low `k` bits of the value. -/
theorem wireValue_frameLevels (k : Nat) (v : Word) : wireValue (frameLevels k v) = v.toNat % 2 ^ k := by
  induction k with
  | zero => simp [frameLevels, wireValue, Nat.mod_one]
  | succ k ih =>
    rw [frameLevels_succ, wireValue_cons, ih, frameLevels_length, Nat.mod_pow_succ, BitVec.getLsbD, Nat.toNat_testBit]
    ring

/-- `FRAME v` sends `v`. -/
theorem wireValue_frame (v : Word) : BitVec.ofNat 16 (wireValue (frameLevels 16 v)) = v := by
  rw [wireValue_frameLevels]
  apply BitVec.eq_of_toNat_eq
  simpa using v.isLt

end Sys2Proof.Machine
end

