-- ==== Sys2Proof/Laws/Sequencer.lean ====
section
/-! SUPPORT. The sequencer as the host and the bus see it: when the block is busy, and the word at the latch an operation
performs. -/

namespace Sys2Proof.Machine

/-- Busy: pulses left, or the line low (R30). -/
theorem busy_iff (s : State) : busy s = true ↔ s.btnRem ≠ 0 ∨ s.outLow = true := by simp [busy]

/-- Busy depends on the count and the line alone. -/
theorem busy_congr {s t : State} (hr : t.btnRem = s.btnRem) (hl : t.outLow = s.outLow) : busy t = busy s := by
  simp [busy, hr, hl]

/-- The line, the count and the code after the latch handler are those after SEQ_STEP at the captured word (R92). -/
theorem latchHandler_sequencer (s : State) : (latchHandler s).outLow = (seqStep s.acc s).outLow ∧
    (latchHandler s).btnRem = (seqStep s.acc s).btnRem ∧ (latchHandler s).btnCode = s.btnCode := by
  rw [latchHandler_eq]; exact ⟨rfl, rfl, rfl⟩

/-- LATCH of an enabled block latches `acc`. -/
theorem latchedWord_latch {s : State} (h : s.irqEn = true) : latchedWord .latch s = some s.acc := by
  simp [latchedWord, h]

/-- A SAMPLE of an enabled block that shows the active latch edge latches `acc`, with the new bit in it where it shows the active
clock edge too. -/
theorem latchedWord_sample {c l : Bool} (d : Bool) {s : State} (h : s.irqEn = true)
    (hl : s.latchQ ≠ l ∧ l = s.cfg.cfg.latchActive) : latchedWord (.sample c l d) s =
      some (if activeEdge s.cfg.cfg.clkActive s.clkQ c then shiftIn s.acc d else s.acc) := by
  simp [latchedWord, h, (activeEdge_iff s.cfg.cfg.latchActive s.latchQ l).2 hl]

end Sys2Proof.Machine
end

