-- ==== Sys2Proof/Laws/WellFormed.lean ====
section
/-! SUPPORT. What the admission of a configuration (spec/00_scope.md R7) gives, one lemma per constraint. -/

namespace Sys2Proof

/-- An admitted configuration satisfies every constraint of R7. -/
theorem Cfg.wf_iff (c : Cfg) : c.wf = true ↔
    popcount c.buzzerMask = 1 ∧ ((∀ t ∈ c.digitTest.toList, t.wf = true) ∧ c.ledTest.wf = true) ∧ popcount c.segMask = 7 ∧
    (∀ e ∈ c.segTable.toList, e &&& ~~~c.segMask = 0) ∧ c.segTable.toList.Nodup ∧ c.ledBit.toList.Nodup ∧
    1 ≤ c.btnPulses ∧ c.btnPulses ≤ 255 := by
  have e2 : (c.digitTest.toList.all KindTest.wf && c.ledTest.wf) = true ↔
      (∀ t ∈ c.digitTest.toList, t.wf = true) ∧ c.ledTest.wf = true := by
    rw [Bool.and_eq_true, List.all_eq_true]
  have e4 : (c.segTable.toList.all fun e => e &&& ~~~c.segMask == 0) = true ↔
      ∀ e ∈ c.segTable.toList, e &&& ~~~c.segMask = 0 := by
    rw [List.all_eq_true]; simp only [beq_iff_eq]
  simp only [Cfg.wf, Cfg.flaw, Bool.not_eq_true', ← Bool.not_eq_true, e2, e4]
  by_cases h1 : popcount c.buzzerMask = 1
  · rw [if_neg (by simp [h1])]
    by_cases h2 : (∀ t ∈ c.digitTest.toList, t.wf = true) ∧ c.ledTest.wf = true
    · rw [if_neg (not_not_intro h2)]
      by_cases h3 : popcount c.segMask = 7
      · rw [if_neg (by simp [h3])]
        by_cases h4 : ∀ e ∈ c.segTable.toList, e &&& ~~~c.segMask = 0
        · rw [if_neg (not_not_intro h4)]
          by_cases h5 : c.segTable.toList.Nodup
          · rw [if_neg (by simpa using h5)]
            by_cases h6 : c.ledBit.toList.Nodup
            · rw [if_neg (by simpa using h6)]
              by_cases h7 : 1 ≤ c.btnPulses ∧ c.btnPulses ≤ 255
              · rw [if_neg (by simpa using h7)]
                exact ⟨fun _ => ⟨h1, h2, h3, h4, h5, h6, h7⟩, fun _ => rfl⟩
              · rw [if_pos h7]; exact ⟨nofun, fun e => absurd e.2.2.2.2.2.2 h7⟩
            · rw [if_pos h6]; exact ⟨nofun, fun e => absurd e.2.2.2.2.2.1 h6⟩
          · rw [if_pos h5]; exact ⟨nofun, fun e => absurd e.2.2.2.2.1 h5⟩
        · rw [if_pos h4]; exact ⟨nofun, fun e => absurd e.2.2.2.1 h4⟩
      · rw [if_pos h3]; exact ⟨nofun, fun e => absurd e.2.2.1 h3⟩
    · rw [if_pos h2]; exact ⟨nofun, fun e => absurd e.2.1 h2⟩
  · rw [if_pos h1]; exact ⟨nofun, fun e => absurd e.1 h1⟩

/-- The table entries of an admitted configuration are distinct (R157 rests on it). -/
theorem WfCfg.segTable_nodup (c : WfCfg) : c.cfg.segTable.toList.Nodup := ((Cfg.wf_iff c.cfg).1 c.admitted).2.2.2.2.1

/-- Two glyphs of an admitted configuration with the same entry are the same glyph. -/
theorem WfCfg.segTable_inj (c : WfCfg) {g h : Glyph} (e : c.cfg.segTable[g] = c.cfg.segTable[h]) : g = h := by
  have hi := List.nodup_iff_injective_get.1 c.segTable_nodup
  have := @hi ⟨g.val, by simp⟩ ⟨h.val, by simp⟩ (by simpa using e)
  exact Fin.ext (by simpa using this)

/-- A table entry of an admitted configuration has no bit outside the segment mask. -/
theorem WfCfg.segTable_masked (c : WfCfg) (g : Glyph) : c.cfg.segTable[g] &&& ~~~c.cfg.segMask = 0 :=
  ((Cfg.wf_iff c.cfg).1 c.admitted).2.2.2.1 _ (by simp)

end Sys2Proof
end

