-- ==== Sys2Proof/Tests/Slice0.lean ====
section
/-! SUPPORT. Tests of the model against spec/95_test_vectors.md (each names its vector), the refusal of each ill-formed
configuration, and for every statement of Certificates/Slice0/Obligations.lean that has hypotheses a state and operands that
meet them. -/

namespace Sys2Proof.Tests

open Sys2Proof Sys2Proof.Machine

/-! ### Configuration T (spec/95_test_vectors.md section 0) -/

/-- The made-up configuration of the vectors; "T is not the hardware's configuration". -/
def cfgT : Cfg where
  hasDecode := true
  clkActive := true
  latchActive := true
  btnCode := #v[0x8101, 0x8110, 0x8108, 0x8120, 0x8140, 0x8102, 0x8104]
  buzzerMask := 0x0100
  digitTest := #v[⟨0xF000, 0x1000⟩, ⟨0xF000, 0x2000⟩, ⟨0xF000, 0x3000⟩, ⟨0xF000, 0x4000⟩]
  ledTest := ⟨0xF000, 0x5000⟩
  segMask := 0x007F
  segTable := #v[0x3F, 0x06, 0x5B, 0x4F, 0x66, 0x6D, 0x7D, 0x07, 0x7F, 0x6F, 0x39, 0x71, 0x79, 0x00]
  ledBit := #v[0, 1, 2, 3, 4]
  btnPulses := 2
  pinClk := 0
  pinLatch := 1
  pinDin := 2
  pinDout := 3

theorem test_T_admitted : cfgT.wf = true := by decide

def wfT : WfCfg := ⟨cfgT, test_T_admitted⟩

/-- T2: T with `BTN_CODE[0] = 0x1101`. -/
def wfT2 : WfCfg := ⟨{ cfgT with btnCode := cfgT.btnCode.set 0 0x1101 }, by decide⟩

/-- T without DEC. -/
def wfNoDec : WfCfg := ⟨{ cfgT with hasDecode := false }, test_T_admitted⟩

/-! ### Ill-formed configurations are refused (R7, U8) -/

theorem test_refuse_buzzer : ({ cfgT with buzzerMask := 0x0300 } : Cfg).flaw = some .buzzerMaskNotOneBit := by decide
theorem test_refuse_kind : ({ cfgT with ledTest := ⟨0x7000, 0xF000⟩ } : Cfg).flaw = some .kindMatchOutsideMask := by decide
theorem test_refuse_segMask : ({ cfgT with segMask := 0x00FF } : Cfg).flaw = some .segMaskNotSevenBits := by decide
theorem test_refuse_segTable :
    ({ cfgT with segTable := cfgT.segTable.set 13 0x80 } : Cfg).flaw = some .segTableOutsideMask := by decide
theorem test_refuse_segDuplicate :
    ({ cfgT with segTable := cfgT.segTable.set 13 0x3F } : Cfg).flaw = some .segTableDuplicate := by decide
theorem test_refuse_ledBit : ({ cfgT with ledBit := #v[0, 1, 2, 3, 0] } : Cfg).flaw = some .ledBitDuplicate := by decide
theorem test_refuse_pulses : ({ cfgT with btnPulses := 256 } : Cfg).flaw = some .btnPulsesOutOfRange := by decide
theorem test_refuse_no_pulse : ({ cfgT with btnPulses := 0 } : Cfg).flaw = some .btnPulsesOutOfRange := by decide
theorem test_admit_refuses : ({ cfgT with btnPulses := 0 } : Cfg).accept.isOk = false := by decide
theorem test_admit_takes : cfgT.accept.isOk = true := by decide

/-! ### Decoding (V-E1, V-E2): one word for every operation, then the reserved words -/

theorem test_decode_capture : decode 0x10000001 = .ok (.clk true) ∧ decode 0x20000000 = .ok .latch ∧
    decode 0x80000007 = .ok (.sample true true true) := by decide
/-- The three pin levels of SAMPLE, one at a time (R94: c, l, d in bits 2, 1, 0). -/
theorem test_decode_sample_bits : decode 0x80000004 = .ok (.sample true false false) ∧
    decode 0x80000002 = .ok (.sample false true false) ∧ decode 0x80000001 = .ok (.sample false false true) := by decide
theorem test_decode_ring : decode 0x30000000 = .ok .pop ∧ decode 0x50000000 = .ok .stat := by decide
theorem test_decode_sequencer : decode 0x40028101 = .ok (.btnw 0x8101 2) ∧
    decode 0x40FF0000 = .ok (.btnw 0x0000 255) := by decide
/-- INIT: c in bit 1, l in bit 0 (R180). -/
theorem test_decode_lifecycle : decode 0x60000003 = .ok (.init true true) ∧ decode 0x60000002 = .ok (.init true false) ∧
    decode 0x60000001 = .ok (.init false true) ∧ decode 0x70000000 = .ok .disable := by decide
theorem test_decode_words : decode 0x90008001 = .ok (.classify 0x8001) ∧ decode 0xA0034FC6 = .ok (.segdec 3 0x4FC6) ∧
    decode 0xB0005FFE = .ok (.leddec 0x5FFE) ∧ decode 0xC0001FA4 = .ok (.decode 0x1FA4) := by decide
theorem test_decode_getters : decode 0xD0000000 = .ok .getdig ∧ decode 0xE0000000 = .ok .getled := by decide
theorem test_reserved_op : decode 0x00000000 = .error .opZero ∧ decode 0xF0000000 = .error .opFifteen ∧
    decode 0x11000000 = .error .rsvBits := by decide
theorem test_reserved_operand : decode 0x10000002 = .error .operandBits ∧ decode 0x10010000 = .error .operandBits ∧
    decode 0x20000001 = .error .operandBits ∧ decode 0x30000001 = .error .operandBits ∧
    decode 0x50010000 = .error .operandBits ∧ decode 0x60000004 = .error .operandBits := by decide
theorem test_reserved_operand2 : decode 0x80000008 = .error .operandBits ∧ decode 0x90010000 = .error .operandBits ∧
    decode 0xA0040000 = .error .operandBits ∧ decode 0xD0000001 = .error .operandBits ∧
    decode 0xE0010000 = .error .operandBits := by decide

/-! ### Small states -/

/-- After power-up, configuration T. -/
def s0 : State := State.powerUp wfT
/-- After INIT 0, 0. -/
def sOn : State := { s0 with inited := true, irqEn := true }
/-- After INIT 0, 0 and DISABLE. -/
def sOff : State := { s0 with inited := true }
/-- Without DEC. -/
def sNoDec : State := State.powerUp wfNoDec
/-- A word of 16 edges captured, one sample held, a request of two pulses. -/
def sBusy : State := { sOn with
  acc := 0x8101, cnt := 16, mem := [(0, 0x1234)], wr := 1, btnCode := 0x8101, btnRem := 2 }
/-- The same between two words. -/
def sWaiting : State := { sBusy with acc := 0, cnt := 0 }
/-- The line low after the last pulse, two samples held (V-R9). -/
def sLow : State := { sOn with mem := [(0, 0x1234), (1, 0x8101)], wr := 2, btnCode := 0x8101, outLow := true }
/-- 64 samples held, 0x1000 the oldest (V-R2), and a 65th word captured. -/
def sFull : State := { sOn with
  acc := 0x1040, cnt := 16, wr := 64, mem := (List.range 64).map fun k => (k, BitVec.ofNat 16 (0x1000 + k)) }

/-- What `f` reads in the next state. -/
def after {α : Type} (o : Host.Outcome State Fault Refusal) (f : State → α) : Option α :=
  match o with
  | .next t => some (f t)
  | .fault _ => none
  | .refused _ => none

/-- A tuple returned by operations performed in order. -/
def answers (ops : List Instr) (s : State) : Option Answer := after (performAll ops s) State.answer

/-! ### One step of each operation -/

/-- V-C2. -/
theorem test_clk : after (exec (.clk true) { sOn with acc := 0x8001, cnt := 3 }) (fun t => (t.acc, t.cnt)) =
    some (0x0003, 4) := by decide
/-- V-C4, k = 32: the counter stays at 31. -/
theorem test_clk_saturates : after (exec (.clk true) { sOn with acc := 0xFFFF, cnt := 31 }) State.cnt = some 31 := by decide
/-- V-C4, k = 16. -/
theorem test_latch : after (exec .latch { sOn with acc := 0xFFFF, cnt := 16 })
    (fun t => (t.mem, t.wr, t.acc, t.cnt, statusWord t)) = some ([(0, 0xFFFF)], 1, 0, 0, 0x1801) := by decide
/-- V-S7: code 0x0000 matches a latch with no clocks. -/
theorem test_latch_pulse : after (exec .latch { sOn with btnRem := 1 }) (fun t => (t.outLow, t.btnRem, statusWord t)) =
    some (true, 0, 0x1E80) := by decide
/-- V-R1. -/
theorem test_pop_empty : answers [.pop] s0 = some (.pop false 0x0000) := by decide
/-- V-R3: after the 65th push POP returns 0x1001. -/
theorem test_pop_after_overflow : after (performAll [.latch, .pop] sFull) (fun t => (t.answer, t.rd, statusWord t)) =
    some (.pop true 0x1001, 2, 0x183F) := by decide
/-- V-S1. -/
theorem test_btnw : after (exec (.btnw 0x8101 2) sOn) (fun t => (t.answer, t.btnCode, t.btnRem, statusWord t)) =
    some (.btnw true, 0x8101, 2, 0x1A80) := by decide
/-- V-S2. -/
theorem test_btnw_busy : after (exec (.btnw 0x8102 1) sBusy) (fun t => (t.answer, t.btnCode, t.btnRem)) =
    some (.btnw false, 0x8101, 2) := by decide
/-- V-R9: reset; line low with two samples held. -/
theorem test_stat : answers [.stat] s0 = some (.stat 0x0080) ∧ answers [.stat] sLow = some (.stat 0x1E02) := by decide
/-- V-C10, V-L1. -/
theorem test_init : after (exec (.init true true) s0) (fun t => (t.clkQ, t.latchQ, statusWord t)) =
    some (true, true, 0x1880) := by decide
/-- V-L2. -/
theorem test_init_again : exec (.init false false) sOff = .refused .secondInit := rfl
/-- V-L4. -/
theorem test_disable : after (exec .disable sOn) statusWord = some 0x1080 := by decide
/-- P5, step 32: clock edge, then latch edge. -/
theorem test_sample : after (exec (.sample true true true) { sOn with acc := 0x52E1, cnt := 15 })
    (fun t => (t.mem, t.acc, t.cnt, t.clkQ, t.latchQ)) = some ([(0, 0xA5C3)], 0, 0, true, true) := by decide
/-- V-C9: an inactive edge. -/
theorem test_sample_inactive : after (exec (.sample false false true) { sOn with acc := 1, cnt := 1, clkQ := true })
    (fun t => (t.acc, t.cnt, t.clkQ)) = some (1, 1, false) := by decide
/-- V-D1, V-D2. -/
theorem test_classify : [0x8101, 0x8001, 0x1FA4, 0x2FC0, 0x3F80, 0x4FC6, 0x5FFE, 0x8103].map (fun w => answers [.classify w] s0) =
    [1, 1, 4, 5, 6, 7, 2, 0].map (fun k => some (.classify k)) := by decide
/-- V-D3: the echo test first. -/
theorem test_classify_echo_first : answers [.classify 0x1001] (State.powerUp wfT2) = some (.classify 1) := by decide
/-- V-D4. -/
theorem test_segdec : after (performAll [.segdec 0 0x1FA4, .segdec 1 0x2FA4] s0) (fun t => (t.answer, digitsWord t.digit)) =
    some (.segdec true false, 0x22DD) := by decide
/-- V-D6. -/
theorem test_segdec_miss : after (exec (.segdec 3 0x4FFE) s0) (fun t => (t.answer, t.digit)) =
    some (.segdec false true, s0.digit) := by decide
/-- V-D11. -/
theorem test_leddec : after (exec (.leddec 0x5FFC) { s0 with ledTent := 0b00001 })
    (fun t => (t.ledTent, t.ledPub, t.answer)) = some (0b00011, 0b00001, .leddec 0b00001) := by decide
/-- V-D10: heaterRed alone publishes heatingEnabled and heating. -/
theorem test_leddec_heater : answers [.leddec 0x5FF7, .leddec 0x5FF7] s0 = some (.leddec 0b00110) := by decide
/-- V-D8, last word. -/
theorem test_decode : after (exec (.decode 0x4FC6) s0) (fun t => (t.answer, digitsWord t.digit)) =
    some (.decode 7 true true 0, 0xDDDA) := by decide
/-- V-D13: an echo. -/
theorem test_decode_echo : exec (.decode 0x8001) s0 = .next { s0 with answer := .decode 1 false false 0 } := by rfl
/-- V-D15; slot 0 in the high nibble (V-D4). -/
theorem test_getdig : answers [.getdig] s0 = some (.getdig 0xDDDD) ∧
    answers [.segdec 0 0x1FA4, .getdig] s0 = some (.getdig 0x2DDD) := by decide
/-- V-D15. -/
theorem test_getled : answers [.getled] { s0 with ledPub := 0b01000 } = some (.getled 0b00110 0b01000) := by decide

/-- P4, step 8: SERVICE pops an LED-bank word and decodes it. -/
theorem test_service : after (service { sOn with mem := [(0, 0x5FFE)], wr := 1 }) (fun t => (t.answer, t.ledTent, t.ledPub, t.rd)) =
    some (.decode 2 false false 0, 0b00001, 0b00000, 1) := by decide
/-- P4, step 14: nothing to decode. -/
theorem test_service_empty : after (service sOn) State.answer = some (.pop false 0) := by decide

/-! ### The step -/

/-- A word issued at reset is run by the next step. -/
theorem test_fetch : after (step (s0.withFetchWord 32 0x60000003)) (fun t => (statusWord t, t.clkQ, t.stream)) =
    some (0x1880, true, []) := by decide
theorem test_trace : opText (.btnw 0x8101 2) = "BTNW 33025, 2" := by decide

/-! ### Witnesses -/

theorem witness_EncodeDecodeAgree : decode 0x40028101 = .ok (.btnw 0x8101 2) := by decide
theorem witness_DecoderAcceptsTableRows : decode 0x10000001 = .ok (.clk true) ∧
    ⟨"CLK", 0x10000000, 0xFFFFFFFE⟩ ∈ opTable ∧ (0x10000001 : OpWord) &&& 0xFFFFFFFE = 0x10000000 := by decide
/-- A decoder's verdict; a word of no row (an operand bit of POP); operation codes 0x0 and 0xF at both ends of their range, and the
least and the greatest non-zero `rsv`. -/
theorem witness_ReservedWordsRefused : ({ s0 with stream := [0xF0000000] } : State).stream = 0xF0000000 :: [] ∧
    decode 0x30000001 = .error .operandBits ∧ (∀ r ∈ opTable, (0x30000001 : OpWord) &&& r.mask ≠ r.pattern) ∧
    (0x00000000#32).toNat / 2 ^ 28 = 0 ∧ (0x0FFFFFFF#32).toNat / 2 ^ 28 = 0 ∧ (0xF0000000#32).toNat / 2 ^ 28 = 15 ∧
    (0xFFFFFFFF#32).toNat / 2 ^ 28 = 15 ∧ (0x11000000#32).toNat / 2 ^ 24 % 16 = 1 ∧
    (0xEF000000#32).toNat / 2 ^ 24 % 16 = 15 :=
  ⟨rfl, rfl, by simp [opTable], rfl, rfl, rfl, rfl, rfl, rfl⟩
theorem witness_StepRunsDecoded : ({ s0 with stream := [0x50000000] } : State).stream = 0x50000000 :: [] ∧
    decode 0x50000000 = .ok .stat := by decide
theorem witness_StepWaits : s0.stream = [] := rfl
theorem witness_RunPerformsStream : performAll [.init false false, .disable] s0 = .next sOff := rfl

theorem inv_sBusy : Inv sBusy :=
  ⟨by decide, by decide, show ∀ k < fill sBusy, (sBusy.mem.read ((sBusy.rd.toNat + k) % 64)).isSome = true by decide,
    fun _ => rfl, nofun⟩
theorem witness_StepKeepsInv : Inv sBusy ∧ step sBusy = .next sBusy := ⟨inv_sBusy, rfl⟩
theorem witness_ConfigurationFixed : step { sOn with stream := [0x70000000] } = .next sOff ∧ exec .disable sOn = .next sOff :=
  ⟨rfl, rfl⟩
/-- INIT from (0, 0), DISABLE from (1, 1), another operation, and an operation in (1, 0). -/
theorem witness_LifecycleMoves : exec (.init false false) s0 = .next sOn ∧ exec .disable sOn = .next sOff ∧
    exec (.clk true) sOff = .next sOff ∧ sOff.inited = true ∧ sOff.irqEn = false := ⟨rfl, rfl, rfl, rfl, rfl⟩
theorem witness_ClkShiftsOneBitIn : sOn.irqEn = true := rfl
theorem witness_ProducerGated : s0.irqEn = false ∧ sOff.irqEn = false := ⟨rfl, rfl⟩
/-- A full buffer and one that a push fills. -/
theorem witness_LatchEffect : sFull.irqEn = true ∧ sFull.cnt = 16 ∧ fill sFull = 64 ∧ fill { sFull with wr := 63 } = 63 ∧
    exec .latch sFull = .next (latchHandler sFull) := ⟨rfl, rfl, by decide, by decide, rfl⟩
theorem witness_LatchFrame : sFull.irqEn = true ∧ sFull.wr - sFull.rd = 64 ∧ sFull.cnt = 16 := by decide
theorem witness_SampleEdges : sOn.irqEn = true ∧ sOn.clkQ ≠ true ∧ true = sOn.cfg.cfg.clkActive ∧ sOn.latchQ ≠ true ∧
    true = sOn.cfg.cfg.latchActive := by decide
/-- Both lines inactive; and for the latch pulse the clock line at its active level. -/
theorem witness_PinPulsesAreEvents : sOn.irqEn = true ∧ sOn.clkQ = !sOn.cfg.cfg.clkActive ∧
    sOn.latchQ = !sOn.cfg.cfg.latchActive ∧ ({ sOn with clkQ := true } : State).clkQ = sOn.cfg.cfg.clkActive := by decide
theorem witness_ClocksCollectTheWord : sOn.irqEn = true ∧ sOn.acc = 0 ∧ sOn.cnt = 0 := by decide
theorem witness_LatchKeepsSixteenEdges : sOn.irqEn = true ∧ sOn.acc = 0 ∧ sOn.cnt = 0 ∧ fill sOn ≤ 64 ∧
    (List.replicate 16 true).length = 16 ∧ (List.replicate 17 true).length ≠ 16 := by decide
theorem witness_FramePushes : sOn.irqEn = true ∧ sOn.acc = 0 ∧ sOn.cnt = 0 ∧ fill sOn ≤ 64 := by decide
theorem witness_ProducerFrame : context .latch = .producer ∧ exec .latch sBusy = .next (latchHandler sBusy) := ⟨rfl, rfl⟩
theorem witness_ConsumerFrame : context .pop = .consumer ∧ exec .pop sBusy = .next (takeOldest sBusy) ∧
    (∀ c l, Instr.pop ≠ .init c l) ∧ (∀ code n, Instr.pop ≠ .btnw code n) ∧ Instr.stat ≠ .pop ∧
    context (.init false false) = .consumer ∧ exec (.init false false) s0 = .next sOn :=
  ⟨rfl, rfl, nofun, nofun, nofun, rfl, rfl⟩
theorem witness_CaptureHiddenFromHost : context .disable = .consumer ∧ (∀ c l, Instr.disable ≠ .init c l) ∧
    exec .disable sOn = .next sOff := ⟨rfl, nofun, rfl⟩
/-- LATCH that writes the latched word to a cell; a POP that reads one; an operation other than POP that writes none. -/
theorem witness_RingAccesses : exec .latch sBusy = .next (latchHandler sBusy) ∧ latchedWord .latch sBusy = some 0x8101 ∧
    (latchHandler sBusy).mem = sBusy.mem.write 1 0x8101 ∧ exec .pop sBusy = .next (takeOldest sBusy) ∧
    sBusy.wr ≠ sBusy.rd ∧ Instr.latch ≠ .pop ∧ Instr.disable ≠ .pop ∧ exec .disable sOn = .next sOff :=
  ⟨rfl, by decide, rfl, rfl, by decide, nofun, nofun, rfl⟩
theorem witness_LatchRefinesQueue : sFull.irqEn = true ∧ fill sFull ≤ 64 ∧ sFull.cnt = 16 ∧ sBusy.irqEn = true ∧
    fill sBusy ≤ 64 ∧ sBusy.cnt = 16 := by decide
theorem witness_PopRefinesQueue : queue s0 = [] ∧ queue sBusy = 0x1234 :: [] := by decide
/-- An operation of the host, and a SAMPLE that shows a clock edge and no latch edge. -/
theorem witness_OthersKeepQueue : (Instr.disable ≠ .pop ∧ Instr.disable ≠ .latch ∧ exec .disable sOn = .next sOff) ∧
    (∀ c l d, Instr.sample true false true = .sample c l d → ¬ (sOn.latchQ ≠ l ∧ l = sOn.cfg.cfg.latchActive)) ∧
    exec (.sample true false true) sOn = .next { sOn with acc := 1, cnt := 1, clkQ := true } :=
  ⟨⟨nofun, nofun, rfl⟩, fun _ _ _ e => by cases e; decide, rfl⟩
theorem witness_PopReadsOnlyWritten : Inv sBusy ∧ exec .pop sBusy = .next (takeOldest sBusy) ∧
    (takeOldest sBusy).answer = .pop true 0x1234 := ⟨inv_sBusy, rfl, by decide⟩
theorem witness_OverflowKeepsLast64 : sOn.irqEn = true ∧ sOn.acc = 0 ∧ sOn.cnt = 0 ∧ fill sOn = 0 ∧
    64 < (List.replicate 65 (0x1234 : Word)).length := by decide
theorem witness_PopOrder : queue sLow = [0x1234] ++ 0x8101 :: [] := by decide
theorem witness_PopAndLatchBothOrders : sFull.irqEn = true ∧ sFull.cnt = 16 ∧ fill sFull = 64 ∧
    ∃ v1 v2 q, queue sFull = v1 :: v2 :: q := ⟨rfl, rfl, by decide, _, _, _, rfl⟩
/-- Busy through the count, busy through the line alone, and not busy. -/
theorem witness_BtnwAcceptsOrRefuses : sBusy.btnRem ≠ 0 ∧ (sLow.btnRem = 0 ∧ sLow.outLow = true) ∧
    (sOn.btnRem = 0 ∧ sOn.outLow = false) := by decide
/-- Release; drive; neither for want of pulses; neither for want of a match. -/
theorem witness_LatchAdvancesSequencer : (sLow.irqEn = true ∧ sLow.outLow = true) ∧
    (sBusy.irqEn = true ∧ sBusy.outLow = false ∧ sBusy.btnRem ≠ 0 ∧ sBusy.acc = sBusy.btnCode) ∧
    (sOn.irqEn = true ∧ sOn.outLow = false ∧ sOn.btnRem = 0) ∧
    (({ sBusy with acc := 0x8001 } : State).outLow = false ∧ (0x8001 : Word) ≠ sBusy.btnCode) := by decide
theorem witness_LineChangesOnlyAtLatch : exec .latch sLow = .next (latchHandler sLow) ∧
    dout (latchHandler sLow) ≠ dout sLow := ⟨rfl, by decide⟩
/-- The latch that ends a request, as an event and at the pins. -/
theorem witness_RequestKeptUntilComplete : busy sLow = true ∧ exec .latch sLow = .next (latchHandler sLow) ∧
    busy (latchHandler sLow) = false ∧
    exec (.sample false true false) sLow = .next { latchHandler sLow with clkQ := false, latchQ := true } :=
  ⟨by decide, rfl, by decide, rfl⟩
/-- As many rounds as pulses, and fewer. -/
theorem witness_PulseCycleOnScannedBus : sWaiting.irqEn = true ∧ sWaiting.acc = 0 ∧ sWaiting.cnt = 0 ∧
    sWaiting.outLow = false ∧ ([0x1FA4, 0x8101] : List Word).length ≤ sWaiting.btnRem.toNat ∧
    ([] : List Word).length < sWaiting.btnRem.toNat := by decide
/-- A latch at another word (three edges), a SAMPLE that shows both edges, an operation without a latch, and framed words. -/
theorem witness_UnmatchedRequestNeverEnds : sWaiting.irqEn = true ∧ sWaiting.acc = 0 ∧ sWaiting.cnt = 0 ∧
    sWaiting.outLow = false ∧ sWaiting.btnRem ≠ 0 ∧
    latchedWord .latch { sWaiting with acc := 5, cnt := 3 } = some 5 ∧
    latchedWord (.sample true true true) sWaiting = some 1 ∧ latchedWord .stat sWaiting = none ∧
    ∀ v ∈ ([0x8001, 0x1FA4] : List Word), v ≠ sWaiting.btnCode :=
  ⟨rfl, rfl, rfl, rfl, by decide, by decide, by decide, rfl, by simp [sWaiting, sBusy]⟩
/-- A run of a clock edge and a latch, no latch of it at the code. -/
theorem witness_UnmatchedRequestNeverEnds_run : (∃ t, performAll [.clk true, .latch] sWaiting = .next t) ∧
    ∀ before i after u, [Instr.clk true, .latch] = before ++ i :: after → performAll before sWaiting = .next u →
      latchedWord i u ≠ some sWaiting.btnCode := by
  refine ⟨⟨_, rfl⟩, fun before i after u hops hu => ?_⟩
  match before with
  | [] => cases hops; cases hu; decide
  | [j] =>
    obtain ⟨rfl, hops⟩ := List.cons.inj hops
    cases hops
    obtain rfl : clkHandler true sWaiting = u := Host.Outcome.next.inj hu
    decide
  | j :: k :: rest => simp at hops
theorem witness_DisabledForGood : let s := { sLow with irqEn := false }
    s.inited = true ∧ s.irqEn = false ∧ performAll [.latch, .clk true, .disable] s = .next s ∧ busy s = true :=
  ⟨rfl, rfl, rfl, by decide⟩
theorem witness_ClassifyOrder : s0.cfg.cfg.hasDecode = true := rfl
theorem witness_UnknownWordIgnored : s0.cfg.cfg.hasDecode = true ∧
    (∀ b : Fin 7, (0x8103 : Word) ||| s0.cfg.cfg.buzzerMask ≠ s0.cfg.cfg.btnCode[b]) ∧
    (∀ p : Fin 4, (0x8103 : Word) &&& (s0.cfg.cfg.digitTest[p]).mask ≠ (s0.cfg.cfg.digitTest[p]).pattern) ∧
    (0x8103 : Word) &&& s0.cfg.cfg.ledTest.mask ≠ s0.cfg.cfg.ledTest.pattern := by decide
theorem witness_SegdecHit : s0.cfg.cfg.hasDecode = true ∧
    ~~~(0x4FC6 : Word) &&& s0.cfg.cfg.segMask = s0.cfg.cfg.segTable[(10 : Glyph)] := by decide
theorem witness_SegdecMiss : s0.cfg.cfg.hasDecode = true ∧
    ∀ g : Glyph, ~~~(0x4FFE : Word) &&& s0.cfg.cfg.segMask ≠ s0.cfg.cfg.segTable[g] := by decide
theorem witness_SegTableDecodesToItself : s0.cfg = wfT ∧
    exec (.segdec 2 (~~~wfT.cfg.segTable[(2 : Glyph)])) s0 =
      .next { s0 with digit := s0.digit.set 2 2, answer := .segdec true false } := ⟨rfl, rfl⟩
theorem witness_RawLedInverted : s0.cfg.cfg.hasDecode = true := rfl
theorem witness_LeddecDebounces : s0.cfg.cfg.hasDecode = true := rfl
theorem witness_LedEventsAreFlagChanges : exec (.leddec 0x5FFE) { s0 with ledTent := 0b00001 } =
    .next { s0 with ledTent := 0b00001, ledPub := 0b00001, answer := .leddec 0b00001 } := rfl
/-- Between the two reads: a digit word, an echo and an unknown word (V-D13). -/
theorem witness_ConsecutiveLedReads :
    (∀ i ∈ [Instr.decode 0x1FA4, .decode 0x8001, .decode 0x0000], readsLedBank s0.cfg.cfg i = false) ∧
    ∃ s1 t u, exec (.leddec 0x5FFE) s0 = .next s1 ∧
      performAll [.decode 0x1FA4, .decode 0x8001, .decode 0x0000] s1 = .next t ∧ exec (.leddec 0x5FFE) t = .next u :=
  ⟨by decide, _, _, _, rfl, rfl, rfl⟩
theorem witness_GlitchPublishesNothing : (∀ i ∈ [Instr.decode 0x1FA4], readsLedBank s0.cfg.cfg i = false) ∧
    s0.ledTent = s0.ledPub ∧ (∀ k : Fin 5, rawLed s0.cfg.cfg 0x5FFF k = s0.ledPub.getLsbD k) ∧
    ∃ s1 t u, exec (.leddec 0x5FFE) s0 = .next s1 ∧ performAll [.decode 0x1FA4] s1 = .next t ∧
      exec (.leddec 0x5FFF) t = .next u := ⟨by decide, rfl, by decide, _, _, _, rfl, rfl, rfl⟩
/-- One word of each kind. -/
theorem witness_DecodeRoutes : s0.cfg.cfg.hasDecode = true ∧ classify s0.cfg.cfg 0x8001 = .echo ∧
    classify s0.cfg.cfg 0x8103 = .unknown ∧ classify s0.cfg.cfg 0x1FA4 = .digit 0 ∧ classify s0.cfg.cfg 0x4FC6 = .digit 3 ∧
    classify s0.cfg.cfg 0x5FFE = .led := by decide
theorem witness_GetdigWord : s0.cfg.cfg.hasDecode = true := rfl
theorem witness_GetledFlags : s0.cfg.cfg.hasDecode = true := rfl
theorem witness_DecAbsentRefused : sNoDec.cfg.cfg.hasDecode = false := rfl
theorem witness_DecIsSeparate : usesDec (.leddec 0x5FFE) = true ∧
    ∃ t, exec (.leddec 0x5FFE) s0 = .next t := ⟨rfl, _, rfl⟩
theorem witness_InitOnce : s0.inited = false ∧ sOff.inited = true := by decide
/-- A word of 17 edges; a push into a full buffer; an empty buffer; a busy block; an unknown word; a pattern not in the table; a
LED read that disagrees. -/
theorem witness_ErrorConditionsAbsorbed : (sOn.irqEn = true ∧ ({ sOn with cnt := 17 } : State).cnt ≠ 16) ∧
    (sFull.irqEn = true ∧ sFull.cnt = 16 ∧ fill sFull = 64) ∧ fill s0 = 0 ∧ busy sLow = true ∧
    (s0.cfg.cfg.hasDecode = true ∧ classify s0.cfg.cfg 0x8103 = .unknown) ∧
    (∀ g : Glyph, s0.cfg.cfg.segTable[g] ≠ ~~~(0x4FFE : Word) &&& s0.cfg.cfg.segMask) ∧
    rawLed s0.cfg.cfg 0x5FFE 0 ≠ s0.ledTent.getLsbD 0 := by decide

end Sys2Proof.Tests
end

/-! The latch handler of spec/40_capture.md R92 taken apart: its two steps PUSH and SEQ_STEP write disjoint state (R41), so they
commute, and the buffer level after it is the one after PUSH. -/

namespace Sys2Proof.Machine

/-- PUSH and SEQ_STEP commute (R41): SEQ_STEP reads and writes the line and the request alone, PUSH the RING and the cursors
alone. -/
theorem seqStep_push_comm (a v : Word) (s : State) : seqStep a (push v s) = push v (seqStep a s) := by
  have pushKeepsRequest : (push v s).outLow = s.outLow ∧ (push v s).btnRem = s.btnRem ∧ (push v s).btnCode = s.btnCode := by
    rw [push_eq]; exact ⟨rfl, rfl, rfl⟩
  obtain ⟨hline, hrem, hcode⟩ := pushKeepsRequest
  obtain ⟨hline', hrem'⟩ := seqStep_congr a hline hrem hcode
  calc seqStep a (push v s)
    _ = { push v s with outLow := (seqStep a s).outLow, btnRem := (seqStep a s).btnRem } := by
        rw [seqStep_frame a (push v s), hline', hrem']
    _ = push v { s with outLow := (seqStep a s).outLow, btnRem := (seqStep a s).btnRem } := by
        rw [push_eq, push_eq]; rfl
    _ = push v (seqStep a s) := by rw [← seqStep_frame a s]

/-- The latch handler as its three steps in the order of R92. -/
theorem latchHandler_eq_steps (s : State) :
    latchHandler s = { seqStep s.acc (if s.cnt = 16 then push s.acc s else s) with acc := 0x0000, cnt := 0 } := rfl

/-- SEQ_STEP leaves the buffer level alone. -/
@[simp] theorem fill_seqStep (a : Word) (s : State) : fill (seqStep a s) = fill s := by rw [seqStep_frame]; rfl

/-- The buffer level after the latch handler: one more exactly when a word of 16 edges found room. -/
theorem fill_latchHandler (s : State) (h : fill s ≤ 64) :
    fill (latchHandler s) = if s.cnt = 16 ∧ fill s < 64 then fill s + 1 else fill s := by
  have levelAfterPush : fill (latchHandler s) = fill (if s.cnt = 16 then push s.acc s else s) :=
    fill_seqStep s.acc _
  rw [levelAfterPush]
  by_cases hcnt : s.cnt = 16
  · rw [if_pos hcnt, fill_push s.acc s h]
    by_cases hfull : fill s = 64
    · simp [hfull]
    · rw [if_neg hfull, if_pos ⟨hcnt, by omega⟩]
  · rw [if_neg hcnt, if_neg fun kept => hcnt kept.1]

/-- Settles O17: the next state is the latch handler's by definition, the order of its two steps by `seqStep_push_comm`, the
level by `fill_latchHandler`. -/
theorem latchEffect : Obligations.LatchEffect := by
  refine ⟨by decide, fun s hirq => ?next, fun s a v => seqStep_push_comm a v s, fun s t hirq hfill hexec => ?level⟩
  case next => rw [exec_latch_on hirq, latchHandler_eq_steps]
  case level =>
    rw [exec_latch_on hirq] at hexec
    obtain rfl : latchHandler s = t := Host.Outcome.next.inj hexec
    exact fill_latchHandler s hfill

end Sys2Proof.Machine

/-! The silent discard of spec/43_decode_assist.md R154: a word that fails every test of the classifier is UNKNOWN, and neither
CLASSIFY nor DECODE then writes anything but the answer. -/

namespace Sys2Proof.Machine

/-- In a block with DEC a DEC operation goes through (R150). -/
theorem withDecode_on {s : State} (n : State) (h : s.cfg.cfg.hasDecode = true) : withDecode s n = .next n := by
  obtain ⟨-, goesThrough⟩ | ⟨hoff, -⟩ := withDecode_cases s n
  · exact goesThrough
  · rw [h] at hoff; cases hoff

/-- The classifier's chain of tests (R151) falls through to UNKNOWN for a word that fails each of them. -/
theorem classify_eq_unknown {c : Cfg} {w : Word} (hEcho : ∀ b : Fin 7, w ||| c.buzzerMask ≠ c.btnCode[b])
    (hDigit : ∀ p : Fin 4, w &&& (c.digitTest[p]).mask ≠ (c.digitTest[p]).pattern)
    (hLed : w &&& c.ledTest.mask ≠ c.ledTest.pattern) : classify c w = .unknown := by
  have notEcho : ¬ isEcho c w = true := by
    rw [echo_iff]
    rintro ⟨b, hcode⟩
    exact hEcho b hcode
  have noDigit (p : Fin 4) : ¬ passes c.digitTest[p] w = true := fun hit => hDigit p ((passes_iff ..).1 hit)
  have notLed : ¬ passes c.ledTest w = true := fun hit => hLed ((passes_iff ..).1 hit)
  -- One test of the chain per step, in the order of R151.
  calc classify c w
    _ = _ := if_neg notEcho
    _ = _ := if_neg (noDigit 0)
    _ = _ := if_neg (noDigit 1)
    _ = _ := if_neg (noDigit 2)
    _ = _ := if_neg (noDigit 3)
    _ = .unknown := if_neg notLed

/-- DECODE discards an UNKNOWN word: only the answer is written (R162). -/
theorem route_unknown {w : Word} {s : State} (h : classify s.cfg.cfg w = .unknown) :
    route w s = { s with answer := .decode 0 false false 0 } := by
  rw [route, h]; rfl

/-- Settles O44: the word is UNKNOWN by `classify_eq_unknown`, and DEC is present, so both operations go through. -/
theorem unknownWordIgnored : Obligations.UnknownWordIgnored := by
  intro s w hDec hEcho hDigit hLed
  have unknown : classify s.cfg.cfg w = .unknown := classify_eq_unknown hEcho hDigit hLed
  constructor
  · rw [exec_classify, withDecode_on _ hDec, unknown]; rfl
  · rw [exec_decode, withDecode_on _ hDec, route_unknown unknown]

end Sys2Proof.Machine

/-! The operation word of spec/30_encoding.md R73 to R76: the decoder and the encoder are inverse to each other, and the decoder
accepts the rows of spec/opcode_table.json. -/

namespace Sys2Proof

/-- A word is determined by its four fields. -/
theorem OpWord.ofFields_eq {w : OpWord} {o : BitVec 4} {n : BitVec 8} {imm : Word} (ho : OpWord.op w = o)
    (hr : OpWord.rsv w = 0) (hn : n = OpWord.n w) (hi : imm = OpWord.imm w) : OpWord.ofFields o n imm = w := by
  rw [← ho, hn, hi, OpWord.ofFields_self w hr]

/-- Settles O1: each row reads back the fields its word was written from. -/
theorem decodeEncodeAgree : Obligations.DecodeEncodeAgree := by
  intro i
  cases i with
  | clk d =>
    rw [encode, decode_ofFields]
    revert d; decide
  | init c l =>
    rw [encode, decode_ofFields]
    revert c l; decide
  | sample c l d =>
    rw [encode, decode_ofFields]
    revert c l d; decide
  | segdec p w =>
    have position : (p.setWidth 8 >>> 2 == 0) = true ∧ (p.setWidth 8).setWidth 2 = p := by revert p; decide
    obtain ⟨fits, back⟩ := position
    rw [encode, decode_ofFields]
    change rowOrReserved 0 (p.setWidth 8 >>> 2 == 0) (.segdec ((p.setWidth 8).setWidth 2) w) = _
    rw [fits, back]; rfl
  | btnw code n => rw [encode, decode_ofFields]; rfl
  | classify w => rw [encode, decode_ofFields]; rfl
  | leddec w => rw [encode, decode_ofFields]; rfl
  | decode w => rw [encode, decode_ofFields]; rfl
  | latch => decide
  | pop => decide
  | stat => decide
  | disable => decide
  | getdig => decide
  | getled => decide

/-- Settles O2: an accepted word has a zero reserved field, its row fixes the operation code, and the zero operand bits the row
demands make the operands of the operation read the fields they were read from. -/
theorem encodeDecodeAgree : Obligations.EncodeDecodeAgree := by
  intro w i h
  have hr := rsv_of_decode h
  have code {k : Nat} (hk : (OpWord.op w).toNat = k) : OpWord.op w = BitVec.ofNat 4 k := by rw [← hk]; simp
  -- One case per row of `rowOf`; `ho` is the operation code of the row.
  unfold decode rowOf at h
  split at h
  case h_1 => cases h
  case h_16 => cases h
  all_goals
    rename_i ho
    obtain ⟨-, zero, rfl⟩ := rowOrReserved_ok.1 h
    simp only [Bool.and_eq_true, beq_iff_eq] at zero
  case h_2 => exact OpWord.ofFields_eq (code ho) hr zero.1.symm (levels_of_shift1 zero.2)
  case h_3 => exact OpWord.ofFields_eq (code ho) hr zero.1.symm zero.2.symm
  case h_4 => exact OpWord.ofFields_eq (code ho) hr zero.1.symm zero.2.symm
  case h_5 => exact OpWord.ofFields_eq (code ho) hr rfl rfl
  case h_6 => exact OpWord.ofFields_eq (code ho) hr zero.1.symm zero.2.symm
  case h_7 => exact OpWord.ofFields_eq (code ho) hr zero.1.symm (levels_of_shift2 zero.2)
  case h_8 => exact OpWord.ofFields_eq (code ho) hr zero.1.symm zero.2.symm
  case h_9 => exact OpWord.ofFields_eq (code ho) hr zero.1.symm (levels_of_shift3 zero.2)
  case h_10 => exact OpWord.ofFields_eq (code ho) hr zero.symm rfl
  case h_11 => exact OpWord.ofFields_eq (code ho) hr (position_of_shift2 zero) rfl
  case h_12 => exact OpWord.ofFields_eq (code ho) hr zero.symm rfl
  case h_13 => exact OpWord.ofFields_eq (code ho) hr zero.symm rfl
  case h_14 => exact OpWord.ofFields_eq (code ho) hr zero.1.symm zero.2.symm
  case h_15 => exact OpWord.ofFields_eq (code ho) hr zero.1.symm zero.2.symm

/-- The word of every operation belongs to the row of the table that has its mnemonic. -/
theorem encode_row (i : Instr) : Laws.EncodesRow.Statement i := by
  cases i with
  | clk d => exact Laws.EncodesRow.clk d
  | latch => exact Laws.EncodesRow.latch
  | pop => exact Laws.EncodesRow.pop
  | btnw code n => exact Laws.EncodesRow.btnw code n
  | stat => exact Laws.EncodesRow.stat
  | init c l => exact Laws.EncodesRow.init c l
  | disable => exact Laws.EncodesRow.disable
  | sample c l d => exact Laws.EncodesRow.sample c l d
  | classify w => exact Laws.EncodesRow.classify w
  | segdec p w => exact Laws.EncodesRow.segdec p w
  | leddec w => exact Laws.EncodesRow.leddec w
  | decode w => exact Laws.EncodesRow.decode w
  | getdig => exact Laws.EncodesRow.getdig
  | getled => exact Laws.EncodesRow.getled

/-- An accepted word belongs to the row of its operation. -/
theorem row_of_decode {w : OpWord} {i : Instr} (h : decode w = .ok i) :
    ∃ r ∈ opTable, r.mnemonic = i.mnemonic ∧ w &&& r.mask = r.pattern := by
  rw [← encodeDecodeAgree w i h]
  exact encode_row i

/-- The fields of a word of a row whose mask covers `op` and `rsv`. -/
theorem fields_of_row {w m p : OpWord} (h : w &&& m = p) (ho : OpWord.op m = 15) (hr : OpWord.rsv m = 15)
    (hp : OpWord.rsv p = 0) : OpWord.op w = OpWord.op p ∧ OpWord.rsv w = 0 ∧
      OpWord.n w &&& OpWord.n m = OpWord.n p ∧ OpWord.imm w &&& OpWord.imm m = OpWord.imm p := by
  have full (v : BitVec 4) : v &&& 15 = v := by revert v; decide
  obtain ⟨op, rsv, n, imm⟩ := (OpWord.masked_iff w m p).1 h
  rw [ho, full] at op
  rw [hr, full, hp] at rsv
  exact ⟨op, rsv, n, imm⟩

/-- A field of which a row demands every bit to be 0 is 0. -/
theorem field_zero {k : Nat} {v m p : BitVec k} (h : v &&& m = p) (hm : m = BitVec.allOnes k) (hp : p = 0) : 0 = v := by
  rw [← BitVec.and_allOnes (x := v), ← hm, h, hp]

/-- A word of a row is the word of an operation with the row's mnemonic. -/
theorem encode_of_row {w : OpWord} {r : OpRow} (hr : r ∈ opTable) (h : w &&& r.mask = r.pattern) :
    ∃ i : Instr, i.mnemonic = r.mnemonic ∧ encode i = w := by
  -- A row without operands admits one word.
  have exact_word {p : OpWord} (h : w &&& 0xFFFFFFFF = p) : p = w := h.symm.trans (BitVec.and_allOnes (x := w))
  simp only [opTable, List.mem_cons, List.not_mem_nil, or_false] at hr
  -- The fourteen rows, in the order of the table.
  rcases hr with rfl | rfl | rfl | rfl | rfl | rfl | rfl | rfl | rfl | rfl | rfl | rfl | rfl | rfl
  · obtain ⟨ho, hrsv, hn, himm⟩ := fields_of_row h (by decide) (by decide) (by decide)
    exact ⟨.clk ((OpWord.imm w).getLsbD 0), rfl, OpWord.ofFields_eq ho hrsv (field_zero hn (by decide) (by decide))
      (levels_of_shift1 (shiftRight_of_masked (by decide) himm))⟩
  · exact ⟨.latch, rfl, exact_word h⟩
  · exact ⟨.pop, rfl, exact_word h⟩
  · obtain ⟨ho, hrsv, -, -⟩ := fields_of_row h (by decide) (by decide) (by decide)
    exact ⟨.btnw (OpWord.imm w) (OpWord.n w), rfl, OpWord.ofFields_eq ho hrsv rfl rfl⟩
  · exact ⟨.stat, rfl, exact_word h⟩
  · obtain ⟨ho, hrsv, hn, himm⟩ := fields_of_row h (by decide) (by decide) (by decide)
    exact ⟨.init ((OpWord.imm w).getLsbD 1) ((OpWord.imm w).getLsbD 0), rfl, OpWord.ofFields_eq ho hrsv
      (field_zero hn (by decide) (by decide)) (levels_of_shift2 (shiftRight_of_masked (by decide) himm))⟩
  · exact ⟨.disable, rfl, exact_word h⟩
  · obtain ⟨ho, hrsv, hn, himm⟩ := fields_of_row h (by decide) (by decide) (by decide)
    exact ⟨.sample ((OpWord.imm w).getLsbD 2) ((OpWord.imm w).getLsbD 1) ((OpWord.imm w).getLsbD 0), rfl,
      OpWord.ofFields_eq ho hrsv (field_zero hn (by decide) (by decide))
        (levels_of_shift3 (shiftRight_of_masked (by decide) himm))⟩
  · obtain ⟨ho, hrsv, hn, -⟩ := fields_of_row h (by decide) (by decide) (by decide)
    exact ⟨.classify (OpWord.imm w), rfl, OpWord.ofFields_eq ho hrsv (field_zero hn (by decide) (by decide)) rfl⟩
  · obtain ⟨ho, hrsv, hn, -⟩ := fields_of_row h (by decide) (by decide) (by decide)
    exact ⟨.segdec ((OpWord.n w).setWidth 2) (OpWord.imm w), rfl, OpWord.ofFields_eq ho hrsv
      (position_of_shift2 (shiftRight_of_masked (by decide) hn)) rfl⟩
  · obtain ⟨ho, hrsv, hn, -⟩ := fields_of_row h (by decide) (by decide) (by decide)
    exact ⟨.leddec (OpWord.imm w), rfl, OpWord.ofFields_eq ho hrsv (field_zero hn (by decide) (by decide)) rfl⟩
  · obtain ⟨ho, hrsv, hn, -⟩ := fields_of_row h (by decide) (by decide) (by decide)
    exact ⟨.decode (OpWord.imm w), rfl, OpWord.ofFields_eq ho hrsv (field_zero hn (by decide) (by decide)) rfl⟩
  · exact ⟨.getdig, rfl, exact_word h⟩
  · exact ⟨.getled, rfl, exact_word h⟩

/-- Settles O3: an accepted word is its operation's word, which the encoder puts in the operation's row; a word of a row is the
word of an operation, which decodes back to it. -/
theorem decoderAcceptsTableRows : Obligations.DecoderAcceptsTableRows := by
  refine fun w => ⟨fun i h => row_of_decode h, fun r hr h => ?_⟩
  obtain ⟨i, hi, rfl⟩ := encode_of_row hr h
  exact ⟨i, decodeEncodeAgree i, hi⟩

/-- Settles O5. -/
theorem specWordsDecode : Obligations.SpecWordsDecode := by unfold Obligations.SpecWordsDecode; decide

/-- The operation code is the word divided by 2^28 (R73). -/
theorem OpWord.op_toNat (w : OpWord) : (OpWord.op w).toNat = w.toNat / 2 ^ 28 := by
  simp only [OpWord.op, BitVec.extractLsb'_toNat, Nat.shiftRight_eq_div_pow]
  omega

/-- The reserved field is the four places above 2^24 (R73). -/
theorem OpWord.rsv_toNat (w : OpWord) : (OpWord.rsv w).toNat = w.toNat / 2 ^ 24 % 16 := by
  simp only [OpWord.rsv, BitVec.extractLsb'_toNat, Nat.shiftRight_eq_div_pow]

/-- An accepted word has an operation code of the table and a zero reserved field (R76). -/
theorem accepted_ranges {w : OpWord} {i : Instr} (h : decode w = .ok i) :
    w.toNat / 2 ^ 28 ≠ 0 ∧ w.toNat / 2 ^ 28 ≠ 15 ∧ w.toNat / 2 ^ 24 % 16 = 0 := by
  rw [← OpWord.op_toNat, ← OpWord.rsv_toNat, rsv_of_decode h]
  unfold decode at h
  refine ⟨fun h0 => ?_, fun h15 => ?_, rfl⟩
  · rw [h0] at h; cases h
  · rw [h15] at h; cases h

end Sys2Proof

/-! One step of the machine (spec/20_memory.md R60): the next word is taken, decoded and performed, or refused. -/

namespace Sys2Proof.Machine

/-- With nothing issued BCB waits. -/
theorem step_nil {s : State} (h : s.stream = []) : step s = .next s := by
  rw [step, fetch_nil h]

/-- A step performs the operation of an accepted word. -/
theorem step_ok {s : State} {w : OpWord} {rest : List OpWord} {i : Instr} (h : s.stream = w :: rest)
    (hw : decode w = .ok i) : step s = exec i { s with stream := rest } := by
  simp only [step, fetch_cons h, hw]

/-- A step refuses a reserved word by the decoder's reason. -/
theorem step_error {s : State} {w : OpWord} {rest : List OpWord} {why : Reserved} (h : s.stream = w :: rest)
    (hw : decode w = .error why) : step s = .refused (.reservedWord why) := by
  simp only [step, fetch_cons h, hw]

/-- A step at a word that no operation decodes from is refused. -/
theorem step_refused {s : State} {w : OpWord} {rest : List OpWord} (h : s.stream = w :: rest)
    (hw : ∀ i, decode w ≠ .ok i) : ∃ why, step s = .refused (.reservedWord why) := by
  cases hd : decode w with
  | ok i => exact absurd hd (hw i)
  | error why => exact ⟨why, step_error h hd⟩

/-- Everything a completed step did: it waited, or it performed an operation on the state without its word. -/
theorem step_cases {s t : State} (h : step s = .next t) : (s.stream = [] ∧ t = s) ∨
    (∃ i w rest, s.stream = w :: rest ∧ exec i { s with stream := rest } = .next t) := by
  cases hs : s.stream with
  | nil =>
    rw [step_nil hs] at h
    exact .inl ⟨rfl, (Host.Outcome.next.inj h).symm⟩
  | cons w rest =>
    cases hw : decode w with
    | error why => rw [step_error hs hw] at h; cases h
    | ok i =>
      rw [step_ok hs hw] at h
      exact .inr ⟨i, w, rest, rfl, h⟩

/-- Settles O4: a word of no row decodes to no operation (`row_of_decode`), and an accepted word is in the ranges of
`accepted_ranges`. -/
theorem reservedWordsRefused : Obligations.ReservedWordsRefused := by
  refine fun s w rest hs => ⟨fun why hw => step_error hs hw, fun noRow => ?_, fun range => ?_⟩
  · refine step_refused hs fun i hi => ?_
    obtain ⟨r, hr, -, inRow⟩ := row_of_decode hi
    exact noRow r hr inRow
  · refine step_refused hs fun i hi => ?_
    obtain ⟨not0, not15, rsv0⟩ := accepted_ranges hi
    rcases range with h | h | h
    · exact not0 h
    · exact not15 h
    · exact h rsv0

/-- Settles O6. -/
theorem stepRunsDecoded : Obligations.StepRunsDecoded := fun _ _ _ _ hs hw => step_ok hs hw

/-- Settles O7. -/
theorem stepWaits : Obligations.StepWaits := fun _ hs => step_nil hs

end Sys2Proof.Machine

/-! What a completed operation does, read off `exec_cases` once per context (spec/10_state.md R41): a producer operation does
nothing, or moves the capture unit and the levels, or performs one latch; a consumer operation is INIT or leaves capture, RING,
the write cursor and the line alone. -/

namespace Sys2Proof.Machine

/-! ### A latch at a word -/

/-- `s` after a latch at the word `a` of `n` edges, the edge detectors holding `c` and `l` after it (R92, R94). -/
def latched (a : Word) (n : BitVec 5) (c l : Bool) (s : State) : State :=
  { latchHandler { s with acc := a, cnt := n } with clkQ := c, latchQ := l }

/-- The latch handler is a latch at `acc`, the levels kept. -/
theorem latchHandler_eq_latched (s : State) : latchHandler s = latched s.acc s.cnt s.clkQ s.latchQ s := by
  rw [latched, latchHandler_eq]

/-- A latch in one record: PUSH where 16 edges were counted, SEQ_STEP always, the capture unit cleared. -/
theorem latched_eq (a : Word) (n : BitVec 5) (c l : Bool) (s : State) : latched a n c l s = { s with
    mem := if n = 16 then s.mem.write (cellIndex s.wr) a else s.mem
    wr := if n = 16 then s.wr + 1 else s.wr
    rd := if n = 16 ∧ fill s = 64 then s.rd + 1 else s.rd
    outLow := (seqStep a s).outLow
    btnRem := (seqStep a s).btnRem
    acc := 0, cnt := 0, clkQ := c, latchQ := l } := by
  obtain ⟨hline, hrem⟩ := seqStep_congr a (s := s) (t := { s with acc := a, cnt := n }) rfl rfl rfl
  rw [latched, latchHandler_eq, hline, hrem]
  rfl

/-- The line, the count and the code after a latch are those after SEQ_STEP. -/
theorem latched_sequencer (a : Word) (n : BitVec 5) (c l : Bool) (s : State) :
    (latched a n c l s).outLow = (seqStep a s).outLow ∧ (latched a n c l s).btnRem = (seqStep a s).btnRem ∧
    (latched a n c l s).btnCode = s.btnCode := by
  rw [latched_eq]; exact ⟨rfl, rfl, rfl⟩

/-- The abstract queue after a latch (R29, R110). -/
theorem queue_latched (a : Word) (n : BitVec 5) (c l : Bool) {s : State} (h : fill s ≤ 64) :
    queue (latched a n c l s) = if n = 16 then pushQueue (queue s) a else queue s := by
  by_cases hn : n = 16
  · rw [if_pos hn, ← queue_push a s h]
    exact queue_congr (by simp only [latched_eq, push_eq, hn, if_true]) (by simp only [latched_eq, push_eq, hn, if_true])
      (by simp only [latched_eq, push_eq, hn, if_true, true_and])
  · rw [if_neg hn]
    exact queue_congr (by simp only [latched_eq, hn, if_false]) (by simp only [latched_eq, hn, if_false])
      (by simp only [latched_eq, hn, if_false, false_and])

/-- The buffer level stays in its bound at a latch. -/
theorem fill_latched_le (a : Word) (n : BitVec 5) (c l : Bool) {s : State} (h : fill s ≤ 64) :
    fill (latched a n c l s) ≤ 64 := by
  have level : fill (latched a n c l s) = if n = 16 ∧ fill s < 64 then fill s + 1 else fill s :=
    fill_latchHandler { s with acc := a, cnt := n } h
  rw [level]
  split <;> omega

/-! ### Which operations latch -/

/-- The operation shows a latch edge: LATCH itself, or a SAMPLE with the active latch edge (R94). -/
def latchEvent (i : Instr) (s : State) : Prop :=
  i = .latch ∨ ∃ c l d, i = .sample c l d ∧ s.latchQ ≠ l ∧ l = s.cfg.cfg.latchActive

/-- Nothing is latched while the handlers are disabled (R91). -/
theorem latchedWord_off (i : Instr) {s : State} (h : s.irqEn = false) : latchedWord i s = none := by
  cases i <;> simp [latchedWord, h]

/-- Only an enabled block latches, at a latch edge. -/
theorem latchEvent_of_latchedWord {i : Instr} {s : State} {a : Word} (h : latchedWord i s = some a) :
    s.irqEn = true ∧ latchEvent i s := by
  cases hirq : s.irqEn
  · rw [latchedWord_off i hirq] at h; cases h
  refine ⟨rfl, ?_⟩
  cases i with
  | latch => exact .inl rfl
  | sample c l d =>
    by_cases hl : activeEdge s.cfg.cfg.latchActive s.latchQ l = true
    · exact .inr ⟨c, l, d, rfl, (activeEdge_iff ..).1 hl⟩
    · simp [latchedWord, hl] at h
  | _ => cases h

/-- Without a latch edge nothing is latched. -/
theorem latchedWord_none {i : Instr} {s : State} (h : ¬ latchEvent i s) : latchedWord i s = none :=
  Option.eq_none_iff_forall_ne_some.2 fun _ ha => h (latchEvent_of_latchedWord ha).2

/-- The host latches nothing. -/
theorem latchedWord_consumer {i : Instr} (h : context i = .consumer) (s : State) : latchedWord i s = none := by
  refine latchedWord_none ?_
  rintro (rfl | ⟨c, l, d, rfl, -⟩) <;> cases h

/-! ### The two contexts -/

/-- SAMPLE with the active latch edge is a latch at the word captured after the clock edge it shows, if any (R94). -/
theorem edgeDetect_of_latch {c l : Bool} (d : Bool) {s : State} (hirq : s.irqEn = true)
    (hl : s.latchQ ≠ l ∧ l = s.cfg.cfg.latchActive) : edgeDetect c l d s =
      latched (if activeEdge s.cfg.cfg.clkActive s.clkQ c then shiftIn s.acc d else s.acc)
        (if activeEdge s.cfg.cfg.clkActive s.clkQ c then satIncr s.cnt else s.cnt) c l s := by
  rw [edgeDetect_on c l d hirq, (activeEdge_iff ..).2 hl]
  cases activeEdge s.cfg.cfg.clkActive s.clkQ c <;> rfl

/-- SAMPLE without the active latch edge writes the capture unit and the levels alone (R94). -/
theorem edgeDetect_of_no_latch {c l : Bool} (d : Bool) {s : State} (hirq : s.irqEn = true)
    (hl : ¬ (s.latchQ ≠ l ∧ l = s.cfg.cfg.latchActive)) : edgeDetect c l d s = { s with
      acc := if activeEdge s.cfg.cfg.clkActive s.clkQ c then shiftIn s.acc d else s.acc
      cnt := if activeEdge s.cfg.cfg.clkActive s.clkQ c then satIncr s.cnt else s.cnt
      clkQ := c, latchQ := l } := by
  rw [edgeDetect_on c l d hirq, Bool.eq_false_iff.2 fun e => hl ((activeEdge_iff ..).1 e)]
  cases activeEdge s.cfg.cfg.clkActive s.clkQ c <;> rfl

/-- While the handlers are disabled a producer operation changes nothing (R91). -/
theorem exec_producer_off {i : Instr} {s : State} (hi : context i = .producer) (h : s.irqEn = false) :
    exec i s = .next s := by
  cases i with
  | clk d => rw [exec_clk, takeInterrupt_off h]
  | latch => rw [exec_latch, takeInterrupt_off h]
  | sample c l d => rw [exec_sample, h]; rfl
  | _ => cases hi

/-- Everything a producer operation can do: nothing while disabled; a move of the capture unit and the levels; a latch. -/
theorem producer_cases {i : Instr} {s t : State} (hi : context i = .producer) (h : exec i s = .next t) :
    (s.irqEn = false ∧ t = s) ∨
    (s.irqEn = true ∧ latchedWord i s = none ∧ ∃ a n c l, t = { s with acc := a, cnt := n, clkQ := c, latchQ := l }) ∨
    (s.irqEn = true ∧ ∃ a n c l, latchedWord i s = some a ∧ t = latched a n c l s) := by
  obtain hirq | hirq := (Bool.eq_false_or_eq_true s.irqEn).symm
  · rw [exec_producer_off hi hirq] at h
    exact .inl ⟨hirq, (Host.Outcome.next.inj h).symm⟩
  refine .inr ?_
  cases i with
  | clk d =>
    rw [exec_clk_on d hirq] at h
    obtain rfl := Host.Outcome.next.inj h
    exact .inl ⟨hirq, rfl, _, _, _, _, clkHandler_eq d s⟩
  | latch =>
    rw [exec_latch_on hirq] at h
    obtain rfl := Host.Outcome.next.inj h
    exact .inr ⟨hirq, _, _, _, _, latchedWord_latch hirq, latchHandler_eq_latched s⟩
  | sample c l d =>
    rw [exec_sample, if_pos hirq] at h
    obtain rfl := Host.Outcome.next.inj h
    by_cases hl : s.latchQ ≠ l ∧ l = s.cfg.cfg.latchActive
    · exact .inr ⟨hirq, _, _, _, _, latchedWord_sample d hirq hl, edgeDetect_of_latch d hirq hl⟩
    · refine .inl ⟨hirq, latchedWord_none ?_, _, _, _, _, edgeDetect_of_no_latch d hirq hl⟩
      rintro (e | ⟨c', l', d', e, hl'⟩)
      · cases e
      · cases e; exact hl hl'
  | _ => cases hi

/-- Everything a consumer operation can do: INIT, or a change of the read cursor (POP), the request (BTNW while not busy), the
enable (DISABLE), DEC's state and the answer. -/
theorem consumer_cases {i : Instr} {s t : State} (hi : context i = .consumer) (h : exec i s = .next t) :
    (∃ c l, i = .init c l ∧ s.inited = false ∧ t = { s with
      acc := 0x0000, cnt := 0, clkQ := c, latchQ := l, inited := true, irqEn := true }) ∨
    (i = .pop ∧ t = takeOldest s) ∨
    (∃ code n, i = .btnw code n ∧ t = submit code n s) ∨
    (i = .disable ∧ t = { s with irqEn := false }) ∨
    ((i = .stat ∨ usesDec i = true) ∧ ∃ dg tent pub a,
      t = { s with digit := dg, ledTent := tent, ledPub := pub, answer := a }) := by
  rcases exec_cases h with ⟨-, -, hp⟩ | ⟨_, rfl, -⟩ | ⟨rfl, -⟩ | ⟨_, _, _, rfl, -⟩ | hpop | hbtnw | ⟨hstat, rfl⟩ |
    hinit | hdisable | ⟨hdec, -, hframe⟩
  · rw [hp] at hi; cases hi
  · cases hi
  · cases hi
  · cases hi
  · exact .inr (.inl hpop)
  · exact .inr (.inr (.inl hbtnw))
  · exact .inr (.inr (.inr (.inr ⟨.inl hstat, _, _, _, _, rfl⟩)))
  · exact .inl hinit
  · exact .inr (.inr (.inr (.inl hdisable)))
  · exact .inr (.inr (.inr (.inr ⟨.inr hdec, hframe⟩)))

/-- INIT completes only in a block not initialised (R180). -/
theorem init_next {c l : Bool} {s t : State} (h : exec (.init c l) s = .next t) : s.inited = false ∧ t = { s with
    acc := 0x0000, cnt := 0, clkQ := c, latchQ := l, inited := true, irqEn := true } := by
  obtain ⟨hinit, e⟩ | ⟨-, e⟩ := exec_init_cases c l s
  · rw [e] at h
    exact ⟨hinit, (Host.Outcome.next.inj h).symm⟩
  · rw [e] at h; cases h

/-- What no producer operation writes (R41). -/
structure KeptByProducer (s t : State) : Prop where
  btnCode : t.btnCode = s.btnCode
  inited : t.inited = s.inited
  irqEn : t.irqEn = s.irqEn
  digit : t.digit = s.digit
  ledPub : t.ledPub = s.ledPub
  ledTent : t.ledTent = s.ledTent
  cfg : t.cfg = s.cfg
  stream : t.stream = s.stream
  answer : t.answer = s.answer

/-- What no consumer operation but INIT writes (R41). -/
structure KeptByConsumer (s t : State) : Prop where
  acc : t.acc = s.acc
  cnt : t.cnt = s.cnt
  clkQ : t.clkQ = s.clkQ
  latchQ : t.latchQ = s.latchQ
  mem : t.mem = s.mem
  wr : t.wr = s.wr
  outLow : t.outLow = s.outLow
  inited : t.inited = s.inited
  cfg : t.cfg = s.cfg
  stream : t.stream = s.stream

theorem producer_keeps {i : Instr} {s t : State} (hi : context i = .producer) (h : exec i s = .next t) :
    KeptByProducer s t := by
  obtain ⟨-, rfl⟩ | ⟨-, -, a, n, c, l, rfl⟩ | ⟨-, a, n, c, l, -, rfl⟩ := producer_cases hi h
  · exact ⟨rfl, rfl, rfl, rfl, rfl, rfl, rfl, rfl, rfl⟩
  · exact ⟨rfl, rfl, rfl, rfl, rfl, rfl, rfl, rfl, rfl⟩
  · rw [latched_eq]; exact ⟨rfl, rfl, rfl, rfl, rfl, rfl, rfl, rfl, rfl⟩

/-- A consumer operation is an INIT of a block not initialised, or keeps what the host never writes. -/
theorem consumer_init_or_keeps {i : Instr} {s t : State} (hi : context i = .consumer) (h : exec i s = .next t) :
    (∃ c l, i = .init c l ∧ s.inited = false ∧ t = { s with
      acc := 0x0000, cnt := 0, clkQ := c, latchQ := l, inited := true, irqEn := true }) ∨
    ((∀ c l, i ≠ .init c l) ∧ KeptByConsumer s t) := by
  by_cases hinit : ∃ c l, i = .init c l
  · obtain ⟨c, l, rfl⟩ := hinit
    exact .inl ⟨c, l, rfl, init_next h⟩
  have notInit (c l : Bool) : i ≠ .init c l := fun e => hinit ⟨c, l, e⟩
  refine .inr ⟨notInit, ?_⟩
  obtain ⟨c, l, e, -⟩ | ⟨-, rfl⟩ | ⟨code, n, -, rfl⟩ | ⟨-, rfl⟩ | ⟨-, _, _, _, _, rfl⟩ := consumer_cases hi h
  · exact absurd e (notInit c l)
  · obtain ⟨-, e⟩ | ⟨-, e⟩ := takeOldest_cases s <;> rw [e] <;>
      exact ⟨rfl, rfl, rfl, rfl, rfl, rfl, rfl, rfl, rfl, rfl⟩
  · obtain ⟨-, e⟩ | ⟨-, e⟩ := submit_cases code n s <;> rw [e] <;>
      exact ⟨rfl, rfl, rfl, rfl, rfl, rfl, rfl, rfl, rfl, rfl⟩
  · exact ⟨rfl, rfl, rfl, rfl, rfl, rfl, rfl, rfl, rfl, rfl⟩
  · exact ⟨rfl, rfl, rfl, rfl, rfl, rfl, rfl, rfl, rfl, rfl⟩

theorem consumer_keeps {i : Instr} {s t : State} (hi : context i = .consumer) (hinit : ∀ c l, i ≠ .init c l)
    (h : exec i s = .next t) : KeptByConsumer s t := by
  obtain ⟨c, l, e, -⟩ | ⟨-, kept⟩ := consumer_init_or_keeps hi h
  · exact absurd e (hinit c l)
  · exact kept

/-- The read cursor moves on the host's side only by POP. -/
theorem consumer_rd {i : Instr} {s t : State} (hi : context i = .consumer) (hpop : i ≠ .pop) (h : exec i s = .next t) :
    t.rd = s.rd := by
  obtain ⟨c, l, -, -, rfl⟩ | ⟨e, -⟩ | ⟨code, n, -, rfl⟩ | ⟨-, rfl⟩ | ⟨-, _, _, _, _, rfl⟩ := consumer_cases hi h
  · rfl
  · exact absurd e hpop
  · obtain ⟨-, e⟩ | ⟨-, e⟩ := submit_cases code n s <;> rw [e]
  · rfl
  · rfl

/-- The request changes on the host's side only by a BTNW that finds the block not busy (R130). -/
theorem consumer_request {i : Instr} {s t : State} (hi : context i = .consumer)
    (hkeep : busy s = true ∨ ∀ code n, i ≠ .btnw code n) (h : exec i s = .next t) :
    t.btnCode = s.btnCode ∧ t.btnRem = s.btnRem := by
  obtain ⟨c, l, -, -, rfl⟩ | ⟨-, rfl⟩ | ⟨code, n, rfl, rfl⟩ | ⟨-, rfl⟩ | ⟨-, _, _, _, _, rfl⟩ := consumer_cases hi h
  · exact ⟨rfl, rfl⟩
  · obtain ⟨-, e⟩ | ⟨-, e⟩ := takeOldest_cases s <;> rw [e] <;> exact ⟨rfl, rfl⟩
  · have hbusy : busy s = true := hkeep.resolve_right fun hne => hne code n rfl
    obtain ⟨-, e⟩ | ⟨hidle, -⟩ := submit_cases code n s
    · rw [e]; exact ⟨rfl, rfl⟩
    · rw [hbusy] at hidle; cases hidle
  · exact ⟨rfl, rfl⟩
  · exact ⟨rfl, rfl⟩

/-- No consumer operation writes RING, the write cursor or the line (R41). -/
theorem consumer_ring_line {i : Instr} {s t : State} (hi : context i = .consumer) (h : exec i s = .next t) :
    t.mem = s.mem ∧ t.wr = s.wr ∧ t.outLow = s.outLow := by
  obtain ⟨_, _, -, -, rfl⟩ | ⟨-, kept⟩ := consumer_init_or_keeps hi h
  · exact ⟨rfl, rfl, rfl⟩
  · exact ⟨kept.mem, kept.wr, kept.outLow⟩

/-- No operation writes the configuration or the operations still to come. -/
theorem exec_fixed {i : Instr} {s t : State} (h : exec i s = .next t) : t.cfg = s.cfg ∧ t.stream = s.stream := by
  cases hi : context i with
  | producer =>
    have kept := producer_keeps hi h
    exact ⟨kept.cfg, kept.stream⟩
  | consumer =>
    obtain ⟨_, _, -, -, rfl⟩ | ⟨-, kept⟩ := consumer_init_or_keeps hi h
    · exact ⟨rfl, rfl⟩
    · exact ⟨kept.cfg, kept.stream⟩

/-! ### The obligations on frames -/

/-- Settles O13: `exec_fixed`, and a step takes the next word before it performs it. -/
theorem configurationFixed : Obligations.ConfigurationFixed := by
  refine ⟨fun s t h => ?_, fun i s t h => exec_fixed h⟩
  obtain ⟨hs, rfl⟩ | ⟨i, w, rest, hs, hexec⟩ := step_cases h
  · exact ⟨rfl, by rw [hs]; rfl⟩
  · obtain ⟨hcfg, hstream⟩ := exec_fixed hexec
    exact ⟨hcfg, by rw [hs]; exact hstream⟩

/-- Settles O24: `producer_keeps`, and CLK is its handler or nothing. -/
theorem producerFrame : Obligations.ProducerFrame := by
  intro i s t hi h
  have kept := producer_keeps hi h
  refine ⟨kept.btnCode, kept.inited, kept.irqEn, kept.digit, kept.ledPub, kept.ledTent, kept.cfg, kept.stream,
    kept.answer, ?_⟩
  rintro d rfl
  rw [exec_clk] at h
  obtain rfl := Host.Outcome.next.inj h
  obtain ⟨-, e⟩ | ⟨-, e⟩ := takeInterrupt_cases (clkHandler d) s <;> rw [e]
  rfl

/-- Settles O25: the consumer's frame lemmas, and INIT only from a block not initialised (`init_next`). -/
theorem consumerFrame : Obligations.ConsumerFrame := by
  intro i s t hi h
  obtain ⟨hmem, hwr, hline⟩ := consumer_ring_line hi h
  refine ⟨fun a => by rw [hmem], hmem, hwr, hline, fun hinit => ?capture, ?init, fun hpop => consumer_rd hi hpop h,
    fun hbtnw => consumer_request hi (.inr hbtnw) h⟩
  case capture =>
    have kept := consumer_keeps hi hinit h
    exact ⟨kept.acc, kept.cnt, kept.clkQ, kept.latchQ⟩
  case init =>
    rintro c l rfl
    obtain ⟨hwas, rfl⟩ := init_next h
    exact ⟨hwas, rfl⟩

end Sys2Proof.Machine

/-! What an operation reads (spec/10_state.md section 5, spec/20_memory.md R51): the host sees neither the capture unit nor, but for
POP, the cells of RING; the producer sees no cell. -/

namespace Sys2Proof.Machine

/-- A DEC operation does the same in any state that agrees on the configuration and DEC's own state, and writes DEC's own state
and the answer alone (R150). -/
theorem exec_dec_blind {i : Instr} {s t : State} (acc : Word) (cnt : BitVec 5) (mem : Memory) (wr rd : BitVec 7)
    (btnCode : Word) (btnRem : BitVec 8) (outLow inited irqEn clkQ latchQ : Bool) (hi : usesDec i = true)
    (h : exec i s = .next t) :
    exec i { s with
      acc := acc, cnt := cnt, mem := mem, wr := wr, rd := rd, btnCode := btnCode, btnRem := btnRem, outLow := outLow,
      inited := inited, irqEn := irqEn, clkQ := clkQ, latchQ := latchQ } = .next { t with
      acc := acc, cnt := cnt, mem := mem, wr := wr, rd := rd, btnCode := btnCode, btnRem := btnRem, outLow := outLow,
      inited := inited, irqEn := irqEn, clkQ := clkQ, latchQ := latchQ } := by
  obtain ⟨hcfg, hstream⟩ := exec_fixed h
  have same := (exec_dec_local (s := s) (s' := { s with
    acc := acc, cnt := cnt, mem := mem, wr := wr, rd := rd, btnCode := btnCode, btnRem := btnRem, outLow := outLow,
    inited := inited, irqEn := irqEn, clkQ := clkQ, latchQ := latchQ }) hi rfl rfl rfl rfl h).2
  rw [same, hcfg, hstream]

/-- Settles O57: `exec_dec_local` gives the frame, `exec_dec_blind` that the rest of the state is not read. -/
theorem decIsSeparate : Obligations.DecIsSeparate := by
  intro i s t hi h
  have frame := (exec_dec_local hi rfl rfl rfl rfl h).1
  refine ⟨frame, fun a => by rw [frame], ?_⟩
  intro acc cnt mem wr rd btnCode btnRem outLow inited irqEn clkQ latchQ
  exact exec_dec_blind acc cnt mem wr rd btnCode btnRem outLow inited irqEn clkQ latchQ hi h

/-- The host reads neither the capture unit nor, outside POP, RING: it does the same whatever they hold. INIT, which clears the
capture unit, is apart. -/
theorem exec_consumer_blind {i : Instr} {s t : State} (a : Word) (n : BitVec 5) (m : Memory) (hi : context i = .consumer)
    (hinit : ∀ c l, i ≠ .init c l) (hpop : i ≠ .pop) (h : exec i s = .next t) :
    exec i { s with acc := a, cnt := n, mem := m } = .next { t with acc := a, cnt := n, mem := m } := by
  obtain ⟨c, l, e, -⟩ | ⟨e, -⟩ | ⟨code, k, rfl, rfl⟩ | ⟨rfl, rfl⟩ | ⟨hstat | hdec, -⟩ := consumer_cases hi h
  · exact absurd e (hinit c l)
  · exact absurd e hpop
  · -- BTNW looks at the request and the line alone.
    have sameBusy : busy { s with acc := a, cnt := n, mem := m } = busy s := rfl
    rw [exec_btnw, submit, submit, sameBusy]
    cases busy s <;> rfl
  · rfl
  · subst hstat
    obtain rfl := Host.Outcome.next.inj h
    rfl
  · obtain ⟨frame, same⟩ :=
      exec_dec_local (s := s) (s' := { s with acc := a, cnt := n, mem := m }) hdec rfl rfl rfl rfl h
    rw [same, frame]

/-- Settles O26: outside POP by `exec_consumer_blind`, the RING left as it is; POP looks at the ring buffer alone. -/
theorem captureHiddenFromHost : Obligations.CaptureHiddenFromHost := by
  intro i s t a n hi hinit h
  by_cases hpop : i = .pop
  · subst hpop
    rw [exec_pop] at h ⊢
    obtain rfl := Host.Outcome.next.inj h
    have sameFill : fill { s with acc := a, cnt := n } = fill s := rfl
    rw [takeOldest, takeOldest, sameFill]
    split <;> rfl
  · have blind := exec_consumer_blind a n s.mem hi hinit hpop h
    rw [← (consumer_keeps hi hinit h).mem] at blind
    rw [← blind, (consumer_keeps hi hinit h).mem]

/-! ### RING -/

/-- A latch does not look at RING: with any other contents it does the same, and writes the same word or none. -/
theorem latched_setMem (a : Word) (n : BitVec 5) (c l : Bool) (m : Memory) (s : State) :
    latched a n c l { s with mem := m } =
      { latched a n c l s with mem := if n = 16 then m.write (cellIndex s.wr) a else m } := by
  obtain ⟨hline, hrem⟩ := seqStep_congr a (s := s) (t := { s with mem := m }) rfl rfl rfl
  rw [latched_eq, latched_eq, hline, hrem]
  rfl

/-- No producer operation reads RING: with any other contents it does the same, and writes the same word or none. -/
theorem exec_producer_blind {i : Instr} {s t : State} (hi : context i = .producer) (h : exec i s = .next t) :
    (∀ m : Memory, exec i { s with mem := m } = .next { t with mem := m }) ∨
    (∃ v, latchedWord i s = some v ∧
      ∀ m : Memory, exec i { s with mem := m } = .next { t with mem := m.write (cellIndex s.wr) v }) := by
  obtain hirq | hirq := (Bool.eq_false_or_eq_true s.irqEn).symm
  · rw [exec_producer_off hi hirq] at h
    obtain rfl := Host.Outcome.next.inj h
    exact .inl fun m => exec_producer_off hi hirq
  -- A latch, whichever operation performs it.
  have latch {a n c l} (hw : latchedWord i s = some a)
      (he : ∀ m, exec i { s with mem := m } = .next (latched a n c l { s with mem := m })) (ht : t = latched a n c l s) :
      (∀ m : Memory, exec i { s with mem := m } = .next { t with mem := m }) ∨ (∃ v, latchedWord i s = some v ∧
        ∀ m : Memory, exec i { s with mem := m } = .next { t with mem := m.write (cellIndex s.wr) v }) := by
    by_cases hn : n = 16
    · exact .inr ⟨a, hw, fun m => by rw [he, latched_setMem, if_pos hn, ht]⟩
    · exact .inl fun m => by rw [he, latched_setMem, if_neg hn, ht]
  cases i with
  | clk d =>
    rw [exec_clk_on d hirq] at h
    obtain rfl := Host.Outcome.next.inj h
    exact .inl fun m => exec_clk_on d (s := { s with mem := m }) hirq
  | latch =>
    rw [exec_latch_on hirq, latchHandler_eq_latched] at h
    refine latch (latchedWord_latch hirq) (fun m => ?_) (Host.Outcome.next.inj h).symm
    rw [exec_latch_on (s := { s with mem := m }) hirq, latchHandler_eq_latched]
  | sample c l d =>
    rw [exec_sample, if_pos hirq] at h
    by_cases hl : s.latchQ ≠ l ∧ l = s.cfg.cfg.latchActive
    · rw [edgeDetect_of_latch d hirq hl] at h
      refine latch (latchedWord_sample d hirq hl) (fun m => ?_) (Host.Outcome.next.inj h).symm
      rw [exec_sample, if_pos (by exact hirq), edgeDetect_of_latch (s := { s with mem := m }) d hirq hl]
    · rw [edgeDetect_of_no_latch d hirq hl] at h
      obtain rfl := Host.Outcome.next.inj h
      refine .inl fun m => ?_
      rw [exec_sample, if_pos (by exact hirq), edgeDetect_of_no_latch (s := { s with mem := m }) d hirq hl]
  | _ => cases hi

/-- An operation writes no cell and leaves `wr`, or it latches and writes the latched word to the cell at `wr[5:0]`. -/
theorem exec_ring_writes {i : Instr} {s t : State} (h : exec i s = .next t) : (t.mem = s.mem ∧ t.wr = s.wr) ∨
    (context i = .producer ∧ t.wr = s.wr + 1 ∧
      ∃ v, latchedWord i s = some v ∧ t.mem = s.mem.write (cellIndex s.wr) v) := by
  cases hi : context i with
  | consumer =>
    obtain ⟨hmem, hwr, -⟩ := consumer_ring_line hi h
    exact .inl ⟨hmem, hwr⟩
  | producer =>
    obtain ⟨-, rfl⟩ | ⟨-, -, a, n, c, l, rfl⟩ | ⟨-, a, n, c, l, hw, rfl⟩ := producer_cases hi h
    · exact .inl ⟨rfl, rfl⟩
    · exact .inl ⟨rfl, rfl⟩
    · rw [latched_eq]
      by_cases hn : n = 16
      · exact .inr ⟨rfl, if_pos hn, a, hw, if_pos hn⟩
      · exact .inl ⟨if_neg hn, if_neg hn⟩

/-- Settles O27: who writes by `exec_ring_writes`; POP reads the cell at `rd[5:0]`; nothing else reads one
(`exec_producer_blind`, `exec_consumer_blind`). -/
theorem ringAccesses : Obligations.RingAccesses := by
  refine ⟨fun i s t h => ?writes, fun s t h hne => ?pop, fun i s t hpop h => ?reads, fun m a b v => m.read_write a b v,
    fun c => ⟨cellIndex_eq c, cellIndex_lt c⟩⟩
  case writes => rw [← cellIndex_eq]; exact exec_ring_writes h
  case pop =>
    rw [exec_pop] at h
    obtain rfl := Host.Outcome.next.inj h
    obtain ⟨hempty, -⟩ | ⟨-, e⟩ := takeOldest_cases s
    · exact absurd ((fill_eq_zero_iff s).1 hempty) hne
    · rw [e, ← cellIndex_eq]
  case reads =>
    rw [← cellIndex_eq]
    cases hi : context i with
    | producer => exact exec_producer_blind hi h
    | consumer =>
      refine .inl fun m => ?_
      obtain ⟨c, l, rfl, hwas, rfl⟩ | ⟨hinit, kept⟩ := consumer_init_or_keeps hi h
      · obtain ⟨-, e⟩ | ⟨hnot, -⟩ := exec_init_cases c l { s with mem := m }
        · exact e
        · rw [show s.inited = true from hnot] at hwas; cases hwas
      · have blind := exec_consumer_blind s.acc s.cnt m hi hinit hpop h
        rw [← kept.acc, ← kept.cnt] at blind
        rw [← blind, kept.acc, kept.cnt]

end Sys2Proof.Machine

/-! The line, the request and the queue: an operation performs a latch or leaves them to the host's own POP and BTNW
(spec/10_state.md R29, spec/42_button_sequencer.md R131 to R136). -/

namespace Sys2Proof.Machine

/-- What an operation that performs no latch keeps. -/
structure KeptWithoutLatch (i : Instr) (s t : State) : Prop where
  mem : t.mem = s.mem
  wr : t.wr = s.wr
  rd : i ≠ .pop → t.rd = s.rd
  outLow : t.outLow = s.outLow
  request : busy s = true → t.btnCode = s.btnCode ∧ t.btnRem = s.btnRem

/-- Everything a completed operation can do to the queue, the line and the request. -/
theorem exec_latch_cases {i : Instr} {s t : State} (h : exec i s = .next t) :
    (latchedWord i s = none ∧ KeptWithoutLatch i s t) ∨
    (∃ a n c l, latchedWord i s = some a ∧ t = latched a n c l s) := by
  cases hi : context i with
  | consumer =>
    obtain ⟨hmem, hwr, hline⟩ := consumer_ring_line hi h
    exact .inl ⟨latchedWord_consumer hi s, hmem, hwr, fun hpop => consumer_rd hi hpop h, hline,
      fun hbusy => consumer_request hi (.inl hbusy) h⟩
  | producer =>
    obtain ⟨hirq, rfl⟩ | ⟨-, hnone, a, n, c, l, rfl⟩ | ⟨-, hlatch⟩ := producer_cases hi h
    · exact .inl ⟨latchedWord_off i hirq, rfl, rfl, fun _ => rfl, rfl, fun _ => ⟨rfl, rfl⟩⟩
    · exact .inl ⟨hnone, rfl, rfl, fun _ => rfl, rfl, fun _ => ⟨rfl, rfl⟩⟩
    · exact .inr hlatch

/-- Settles O38: an operation that performs no latch keeps the line. -/
theorem lineChangesOnlyAtLatch : Obligations.LineChangesOnlyAtLatch := by
  intro i s t h hne
  obtain ⟨-, kept⟩ | ⟨a, n, c, l, hw, -⟩ := exec_latch_cases h
  · exact absurd (congrArg Bool.not kept.outLow) hne
  · exact latchEvent_of_latchedWord hw

/-- Settles O30: without a latch edge nothing is latched, and only POP moves the read cursor. -/
theorem othersKeepQueue : Obligations.OthersKeepQueue := by
  intro i s t hpop hlatch hsample h
  obtain ⟨-, kept⟩ | ⟨a, n, c, l, hw, -⟩ := exec_latch_cases h
  · exact queue_congr kept.mem kept.wr (kept.rd hpop)
  · obtain ⟨-, e | ⟨c, l, d, e, edge⟩⟩ := latchEvent_of_latchedWord hw
    · exact absurd e hlatch
    · exact absurd edge (hsample c l d e)

/-! ### The request -/

/-- The line and the request after SEQ_STEP in a busy block: the count never rises, and busy ends only by the release after the
last pulse (R131, R133). -/
theorem seqStep_busy (a : Word) {s : State} (hbusy : busy s = true) : (seqStep a s).btnRem ≤ s.btnRem ∧
    ((seqStep a s).btnRem = 0 → (seqStep a s).outLow = false → s.btnRem = 0 ∧ s.outLow = true) := by
  obtain ⟨hlow, e⟩ | ⟨-, hrem, -, e⟩ | ⟨hlow, -, e⟩ := seqStep_cases a s <;> rw [e]
  · exact ⟨BitVec.le_refl _, fun hzero _ => ⟨hzero, hlow⟩⟩
  · refine ⟨?_, nofun⟩
    change s.btnRem - 1 ≤ s.btnRem
    bv_omega
  · refine ⟨BitVec.le_refl _, fun hzero _ => ?_⟩
    obtain hrem | hline := (busy_iff s).1 hbusy
    · exact absurd hzero hrem
    · rw [hlow] at hline; cases hline

/-- Settles O39: without a latch the request of a busy block stays; at a latch `seqStep_busy`. -/
theorem requestKeptUntilComplete : Obligations.RequestKeptUntilComplete := by
  intro i s t hbusy h
  obtain ⟨-, kept⟩ | ⟨a, n, c, l, hw, rfl⟩ := exec_latch_cases h
  · obtain ⟨hcode, hrem⟩ := kept.request hbusy
    refine ⟨hcode, hrem ▸ BitVec.le_refl _, fun hidle => ?_⟩
    rw [busy_congr hrem kept.outLow, hbusy] at hidle
    cases hidle
  · obtain ⟨hline, hrem, hcode⟩ := latched_sequencer a n c l s
    obtain ⟨hle, hends⟩ := seqStep_busy a hbusy
    refine ⟨hcode, by rw [hrem]; exact hle, fun hidle => ?_⟩
    have idle : (latched a n c l s).btnRem = 0 ∧ (latched a n c l s).outLow = false := by
      simpa [busy] using hidle
    obtain ⟨hzero, hreleased⟩ := idle
    obtain ⟨hlast, hlow⟩ := hends (hrem ▸ hzero) (hline ▸ hreleased)
    obtain ⟨hirq, hevent⟩ := latchEvent_of_latchedWord hw
    exact ⟨hlast, hlow, hreleased, hirq, hevent⟩

/-- A request waits when the count, the code and the released line are as they were. -/
theorem requestWaits_of_kept {s t : State} (hline : s.outLow = false) (hrem : s.btnRem ≠ 0) (hr : t.btnRem = s.btnRem)
    (hc : t.btnCode = s.btnCode) (hl : t.outLow = s.outLow) : requestWaits s t := by
  have hbusy : busy t = true := (busy_iff t).2 (.inl (hr ▸ hrem))
  refine ⟨hr, hc, hl.trans hline, hbusy, fun code n => ?_⟩
  obtain ⟨-, e⟩ | ⟨hidle, -⟩ := submit_cases code n t
  · rw [exec_btnw, e]
  · rw [hbusy] at hidle; cases hidle

/-- Waiting after waiting is waiting. -/
theorem requestWaits_trans {s t u : State} (h1 : requestWaits s t) (h2 : requestWaits t u) : requestWaits s u := by
  obtain ⟨hrem, hcode, -⟩ := h1
  obtain ⟨hrem', hcode', hline, hbusy, hrefuses⟩ := h2
  exact ⟨hrem'.trans hrem, hcode'.trans hcode, hline, hbusy, hrefuses⟩

/-- SEQ_STEP with the line released and no match does nothing (R133). -/
theorem seqStep_no_match {a : Word} {s : State} (hline : s.outLow = false) (hno : s.btnRem = 0 ∨ a ≠ s.btnCode) :
    seqStep a s = s := by
  obtain ⟨hlow, -⟩ | ⟨-, hrem, ha, -⟩ | ⟨-, -, e⟩ := seqStep_cases a s
  · rw [hline] at hlow; cases hlow
  · exact absurd ha (hno.resolve_left hrem)
  · exact e

/-- One operation leaves a request waiting, unless it latches the code (R135). -/
theorem exec_unmatched {i : Instr} {s t : State} (hline : s.outLow = false) (hrem : s.btnRem ≠ 0)
    (hne : latchedWord i s ≠ some s.btnCode) (h : exec i s = .next t) : requestWaits s t := by
  obtain ⟨-, kept⟩ | ⟨a, n, c, l, hw, rfl⟩ := exec_latch_cases h
  · obtain ⟨hcode, hcount⟩ := kept.request ((busy_iff s).2 (.inl hrem))
    exact requestWaits_of_kept hline hrem hcount hcode kept.outLow
  · have other : a ≠ s.btnCode := fun e => hne (by rw [hw, e])
    obtain ⟨hl, hr, hc⟩ := latched_sequencer a n c l s
    rw [seqStep_no_match hline (.inr other)] at hl hr
    exact requestWaits_of_kept hline hrem hr hc hl

/-- A run none of whose latches is at the code leaves a request waiting (R135). -/
theorem performAll_unmatched {ops : List Instr} {s t : State} (hline : s.outLow = false) (hrem : s.btnRem ≠ 0)
    (hne : ∀ before i after u, ops = before ++ i :: after → performAll before s = .next u →
      latchedWord i u ≠ some s.btnCode) (h : performAll ops s = .next t) : requestWaits s t := by
  induction ops generalizing s with
  | nil =>
    obtain rfl := Host.Outcome.next.inj h
    exact requestWaits_of_kept hline hrem rfl rfl rfl
  | cons i rest ih =>
    rw [performAll_cons, andThen_next_iff] at h
    obtain ⟨u, hu, ht⟩ := h
    have waits : requestWaits s u := exec_unmatched hline hrem (hne [] i rest s rfl rfl) hu
    have ⟨hcount, hcode, hreleased, _⟩ := waits
    refine requestWaits_trans waits (ih hreleased (hcount ▸ hrem) (fun before j after v hops hv => ?_) ht)
    rw [hcode]
    exact hne (i :: before) j after v (by rw [hops]; rfl) (by rw [performAll_cons, hu]; exact hv)

end Sys2Proof.Machine

/-! The lifecycle register (spec/44_lifecycle.md R183) and the invariant of BCB. -/

namespace Sys2Proof.Machine

/-! ### Lifecycle -/

/-- INIT sets the lifecycle register, DISABLE clears the enable, nothing else moves it (R183). -/
theorem exec_lifecycle {i : Instr} {s t : State} (h : exec i s = .next t) :
    ((∃ c l, i = .init c l) ∧ s.inited = false ∧ t.inited = true ∧ t.irqEn = true) ∨
    (i = .disable ∧ t.inited = s.inited ∧ t.irqEn = false) ∨
    ((∀ c l, i ≠ .init c l) ∧ i ≠ .disable ∧ t.inited = s.inited ∧ t.irqEn = s.irqEn) := by
  cases hi : context i with
  | producer =>
    have kept := producer_keeps hi h
    have notInit (c l : Bool) : i ≠ .init c l := by rintro rfl; cases hi
    have notDisable : i ≠ .disable := by rintro rfl; cases hi
    exact .inr (.inr ⟨notInit, notDisable, kept.inited, kept.irqEn⟩)
  | consumer =>
    obtain ⟨c, l, rfl, hwas, rfl⟩ | ⟨rfl, rfl⟩ | ⟨code, n, rfl, rfl⟩ | ⟨rfl, rfl⟩ | ⟨hother, _, _, _, _, rfl⟩ :=
      consumer_cases hi h
    · exact .inl ⟨⟨c, l, rfl⟩, hwas, rfl, rfl⟩
    · refine .inr (.inr ⟨nofun, nofun, ?_⟩)
      obtain ⟨-, e⟩ | ⟨-, e⟩ := takeOldest_cases s <;> rw [e] <;> exact ⟨rfl, rfl⟩
    · refine .inr (.inr ⟨nofun, nofun, ?_⟩)
      obtain ⟨-, e⟩ | ⟨-, e⟩ := submit_cases code n s <;> rw [e] <;> exact ⟨rfl, rfl⟩
    · exact .inr (.inl ⟨rfl, rfl, rfl⟩)
    · have notInit (c l : Bool) : i ≠ .init c l := by rintro rfl; obtain e | e := hother <;> cases e
      have notDisable : i ≠ .disable := by rintro rfl; obtain e | e := hother <;> cases e
      exact .inr (.inr ⟨notInit, notDisable, rfl, rfl⟩)

/-- Nothing leaves (1, 0): a disabled block stays disabled (R183). -/
theorem exec_stays_disabled {i : Instr} {s t : State} (hinit : s.inited = true) (hirq : s.irqEn = false)
    (h : exec i s = .next t) : t.inited = true ∧ t.irqEn = false := by
  obtain ⟨-, hwas, -⟩ | ⟨-, hin, hen⟩ | ⟨-, -, hin, hen⟩ := exec_lifecycle h
  · rw [hinit] at hwas; cases hwas
  · exact ⟨hin.trans hinit, hen⟩
  · exact ⟨hin.trans hinit, hen.trans hirq⟩

/-- Settles O14. -/
theorem lifecycleMoves : Obligations.LifecycleMoves :=
  fun _ _ _ h => ⟨exec_lifecycle h, fun hinit hirq => exec_stays_disabled hinit hirq h⟩

/-- `t` is disabled for good, with the line, the capture unit and the buffer's written part of `s`, and the request of `s` if that
was busy. -/
structure StoppedSince (s t : State) : Prop where
  inited : t.inited = true
  irqEn : t.irqEn = false
  outLow : t.outLow = s.outLow
  acc : t.acc = s.acc
  cnt : t.cnt = s.cnt
  wr : t.wr = s.wr
  mem : t.mem = s.mem
  request : busy s = true → t.btnRem = s.btnRem ∧ t.btnCode = s.btnCode

/-- An operation of a disabled block moves neither line nor capture unit, and leaves the request of a busy one (R230). -/
theorem exec_stopped {s t u : State} {i : Instr} (hs : StoppedSince s t) (h : exec i t = .next u) : StoppedSince s u := by
  obtain ⟨hinit, hirq⟩ := exec_stays_disabled hs.inited hs.irqEn h
  cases hi : context i with
  | producer =>
    rw [exec_producer_off hi hs.irqEn] at h
    obtain rfl := Host.Outcome.next.inj h
    exact hs
  | consumer =>
    have notInit (c l : Bool) : i ≠ .init c l := by
      rintro rfl
      have hwas := (init_next h).1
      rw [hs.inited] at hwas; cases hwas
    have kept := consumer_keeps hi notInit h
    refine ⟨hinit, hirq, kept.outLow.trans hs.outLow, kept.acc.trans hs.acc, kept.cnt.trans hs.cnt, kept.wr.trans hs.wr,
      kept.mem.trans hs.mem, fun hbusy => ?_⟩
    obtain ⟨hrem, hcode⟩ := hs.request hbusy
    obtain ⟨hcode', hrem'⟩ := consumer_request hi (.inl ((busy_congr hrem hs.outLow).trans hbusy)) h
    exact ⟨hrem'.trans hrem, hcode'.trans hcode⟩

/-- Settles O42: `StoppedSince` is kept by every operation, so by every run. -/
theorem disabledForGood : Obligations.DisabledForGood := by
  intro ops s t hinit hirq h
  have start : StoppedSince s s := ⟨hinit, hirq, rfl, rfl, rfl, rfl, rfl, fun _ => ⟨rfl, rfl⟩⟩
  have stopped : StoppedSince s t := performAll_keeps (fun _ _ _ _ hu hv => exec_stopped hu hv) start h
  refine ⟨stopped.irqEn, congrArg Bool.not stopped.outLow, stopped.acc, stopped.cnt, stopped.wr, stopped.mem, fun hbusy => ?_⟩
  obtain ⟨hrem, hcode⟩ := stopped.request hbusy
  exact ⟨(busy_congr hrem stopped.outLow).trans hbusy, hrem, hcode⟩

/-! ### The invariant -/

/-- No sample is held at power-up. -/
theorem fill_powerUp (c : WfCfg) : fill (State.powerUp c) = 0 := (fill_eq_zero_iff _).2 rfl

/-- The status word at power-up: the buffer is empty, every other bit is 0. -/
theorem statusWord_powerUp (c : WfCfg) : statusWord (State.powerUp c) = 0x0080 := by
  have empty : isEmpty (State.powerUp c) = true := by rw [isEmpty, fill_powerUp]; rfl
  have notFull : isFull (State.powerUp c) = false := by rw [isFull, fill_powerUp]; rfl
  have idle : busy (State.powerUp c) = false := rfl
  rw [statusWord, empty, notFull, idle]
  simp [State.powerUp]

/-- Settles O10: every element by its definition (R42). -/
theorem powerUpState : Obligations.PowerUpState := fun c =>
  ⟨rfl, rfl, fun _ => rfl, rfl, rfl, rfl, rfl, rfl, rfl, rfl, rfl, rfl, rfl, rfl, rfl, rfl, rfl, rfl, rfl,
    by rw [exec_stat, statusWord_powerUp]⟩

/-- The invariant holds at power-up. -/
theorem inv_powerUp (c : WfCfg) : Inv (State.powerUp c) where
  memory := Memory.wf_nil
  fillBound := by rw [fill_powerUp]; exact Nat.zero_le 64
  written := fun k hk => absurd (fill_powerUp c ▸ hk) (Nat.not_lt_zero k)
  lifecycle := nofun
  beforeInit := fun _ => ⟨rfl, rfl, rfl, rfl, rfl, rfl, rfl, rfl⟩

/-- Settles O11. -/
theorem resetInv : Obligations.ResetInv := ⟨inv_powerUp, inv_powerUp _⟩

/-- Whether the samples held were written depends on RING and the cursors alone. -/
theorem queueWritten_congr {s t : State} (hm : t.mem = s.mem) (hw : t.wr = s.wr) (hr : t.rd = s.rd) (h : queueWritten s) :
    queueWritten t := by
  have level : fill t = fill s := by simp only [fill, hw, hr]
  intro k hk
  rw [hm, hr]
  exact h k (level ▸ hk)

/-- PUSH writes the one new sample and keeps the others written (R29, R110). -/
theorem queueWritten_push (v : Word) {s : State} (hfill : fill s ≤ 64) (h : queueWritten s) : queueWritten (push v s) := by
  intro k hk
  have level := fill_push v s hfill
  have hr : (s.rd + 1).toNat = (s.rd.toNat + 1) % 128 := by bv_omega
  have hread (j : Nat) : (push v s).mem.read j = if j = cellIndex s.wr then some v else s.mem.read j := by
    rw [push_eq]; exact Memory.read_write ..
  rw [hread]
  by_cases hcell : ((push v s).rd.toNat + k) % 64 = cellIndex s.wr
  · rw [if_pos hcell]; rfl
  · -- Not the new cell, so a sample held before, one place further on if the oldest was dropped.
    rw [if_neg hcell]
    rw [cellIndex_wr] at hcell
    by_cases hfull : fill s = 64
    · have hrd : (push v s).rd = s.rd + 1 := by simp only [push_eq, hfull, if_true]
      have shift : ((push v s).rd.toNat + k) % 64 = (s.rd.toNat + (k + 1)) % 64 := by rw [hrd, hr]; omega
      rw [shift] at hcell ⊢
      rw [if_pos hfull] at level
      exact h (k + 1) (by omega)
    · have hrd : (push v s).rd = s.rd := by simp only [push_eq, hfull, if_false]
      rw [hrd] at hcell ⊢
      rw [if_neg hfull] at level
      have older : k ≠ fill s := fun e => hcell (by rw [e])
      exact h k (by omega)

/-- A latch keeps RING canonical, the level in its bound and the samples held written. -/
theorem latched_ring (a : Word) (n : BitVec 5) (c l : Bool) {s : State} (hm : s.mem.wf = true) (hfill : fill s ≤ 64)
    (hw : queueWritten s) : (latched a n c l s).mem.wf = true ∧ fill (latched a n c l s) ≤ 64 ∧
      queueWritten (latched a n c l s) := by
  refine ⟨?_, fill_latched_le a n c l hfill, ?_⟩
  · rw [latched_eq]
    by_cases hn : n = 16
    · rw [if_pos hn]; exact Memory.write_wf a hm (cellIndex_lt s.wr)
    · rw [if_neg hn]; exact hm
  · by_cases hn : n = 16
    · refine queueWritten_congr ?_ ?_ ?_ (queueWritten_push a hfill hw) <;> simp only [latched_eq, push_eq, hn, if_true, true_and]
    · refine queueWritten_congr ?_ ?_ ?_ hw <;> simp only [latched_eq, hn, if_false, false_and]

/-- POP keeps the level in its bound and the samples held written. -/
theorem takeOldest_ring {s : State} (hfill : fill s ≤ 64) (hw : queueWritten s) :
    fill (takeOldest s) ≤ 64 ∧ queueWritten (takeOldest s) := by
  obtain ⟨-, e⟩ | ⟨hne, e⟩ := takeOldest_cases s <;> rw [e]
  · exact ⟨hfill, hw⟩
  · have level : fill { s with rd := s.rd + 1, answer := .pop true (ringRead s (cellIndex s.rd)) } + 1 = fill s := by
      unfold fill at *; bv_omega
    refine ⟨by omega, fun k hk => ?_⟩
    have hr : (s.rd + 1).toNat = (s.rd.toNat + 1) % 128 := by bv_omega
    have shift : ((s.rd + 1).toNat + k) % 64 = (s.rd.toNat + (k + 1)) % 64 := by omega
    change (s.mem.read (((s.rd + 1).toNat + k) % 64)).isSome = true
    rw [shift]
    exact hw (k + 1) (by omega)

/-- Every operation keeps RING canonical, the level in its bound and the samples held written. -/
theorem exec_ring {i : Instr} {s t : State} (hs : Inv s) (h : exec i s = .next t) :
    t.mem.wf = true ∧ fill t ≤ 64 ∧ queueWritten t := by
  obtain ⟨-, kept⟩ | ⟨a, n, c, l, -, rfl⟩ := exec_latch_cases h
  · by_cases hpop : i = .pop
    · subst hpop
      rw [exec_pop] at h
      obtain rfl := Host.Outcome.next.inj h
      exact ⟨by rw [kept.mem]; exact hs.memory, takeOldest_ring hs.fillBound hs.written⟩
    · have level : fill t = fill s := by simp only [fill, kept.wr, kept.rd hpop]
      exact ⟨by rw [kept.mem]; exact hs.memory, level ▸ hs.fillBound,
        queueWritten_congr kept.mem kept.wr (kept.rd hpop) hs.written⟩
  · exact latched_ring a n c l hs.memory hs.fillBound hs.written

/-- Every operation keeps the lifecycle register legal (R32). -/
theorem exec_legalLifecycle {i : Instr} {s t : State} (hs : legalLifecycle s) (h : exec i s = .next t) :
    legalLifecycle t := by
  intro hen
  obtain ⟨-, -, hin, -⟩ | ⟨-, -, hoff⟩ | ⟨-, -, hin, hen'⟩ := exec_lifecycle h
  · exact hin
  · rw [hoff] at hen; cases hen
  · exact hin.trans (hs (hen' ▸ hen))

/-- Before INIT nothing is captured, and POP finds nothing (R91, R180). -/
theorem exec_beforeInit {i : Instr} {s t : State} (hs : Inv s) (h : exec i s = .next t) (hin : t.inited = false) :
    BeforeInit t := by
  have hwas : s.inited = false ∧ ∀ c l, i ≠ .init c l := by
    obtain ⟨-, -, hon, -⟩ | ⟨rfl, hkept, -⟩ | ⟨notInit, -, hkept, -⟩ := exec_lifecycle h
    · rw [hon] at hin; cases hin
    · exact ⟨hkept ▸ hin, nofun⟩
    · exact ⟨hkept ▸ hin, notInit⟩
  obtain ⟨hinit, notInit⟩ := hwas
  have start := hs.beforeInit hinit
  cases hi : context i with
  | producer =>
    have hirq : s.irqEn = false := Bool.eq_false_iff.2 fun hon => by
      have := hs.lifecycle hon
      rw [hinit] at this; cases this
    rw [exec_producer_off hi hirq] at h
    obtain rfl := Host.Outcome.next.inj h
    exact start
  | consumer =>
    have kept := consumer_keeps hi notInit h
    have hrd : t.rd = s.rd := by
      by_cases hpop : i = .pop
      · subst hpop
        rw [exec_pop] at h
        obtain rfl := Host.Outcome.next.inj h
        obtain ⟨-, e⟩ | ⟨hne, -⟩ := takeOldest_cases s
        · rw [e]
        · exact absurd ((fill_eq_zero_iff s).2 (start.wr.trans start.rd.symm)) hne
      · exact consumer_rd hi hpop h
    exact ⟨kept.acc.trans start.acc, kept.cnt.trans start.cnt, kept.mem.trans start.mem, kept.wr.trans start.wr,
      hrd.trans start.rd, kept.outLow.trans start.outLow, kept.clkQ.trans start.clkQ, kept.latchQ.trans start.latchQ⟩

/-- Every operation keeps the invariant. -/
theorem exec_keeps_inv {i : Instr} {s t : State} (hs : Inv s) (h : exec i s = .next t) : Inv t := by
  obtain ⟨hmem, hfill, hwritten⟩ := exec_ring hs h
  exact ⟨hmem, hfill, hwritten, exec_legalLifecycle hs.lifecycle h, exec_beforeInit hs h⟩

/-- The operations still to come do not enter the invariant. -/
theorem inv_stream {s : State} (hs : Inv s) (l : List OpWord) : Inv { s with stream := l } where
  memory := hs.memory
  fillBound := hs.fillBound
  written := hs.written
  lifecycle := hs.lifecycle
  beforeInit := fun hin =>
    have start := hs.beforeInit hin
    ⟨start.acc, start.cnt, start.mem, start.wr, start.rd, start.outLow, start.clkQ, start.latchQ⟩

/-- Settles O12: a step waits, or performs one operation (`exec_keeps_inv`) on the state without its word. -/
theorem stepKeepsInv : Obligations.StepKeepsInv := by
  intro s t hs h
  obtain ⟨-, rfl⟩ | ⟨i, w, rest, -, hexec⟩ := step_cases h
  · exact hs
  · exact exec_keeps_inv (inv_stream hs rest) hexec

/-- Settles O31: POP reads the cell at `rd[5:0]`, and the invariant has the oldest sample written. -/
theorem popReadsOnlyWritten : Obligations.PopReadsOnlyWritten := by
  intro s t hs h v hv
  rw [exec_pop] at h
  obtain rfl := Host.Outcome.next.inj h
  obtain ⟨-, e⟩ | ⟨hne, e⟩ := takeOldest_cases s
  · rw [e] at hv; cases hv
  · rw [e] at hv
    have hread : ringRead s (cellIndex s.rd) = v := (Answer.pop.inj hv).2
    have hwritten := hs.written 0 (by omega)
    rw [cellIndex_eq] at hread
    obtain ⟨x, hx⟩ := Option.isSome_iff_exists.1 hwritten
    rw [Nat.add_zero] at hx
    rw [ringRead, hx] at hread
    rw [hx, ← hread]; rfl

end Sys2Proof.Machine

/-! The execution (spec/20_memory.md R60, R63): a run over encoded operations performs them in order, every operation answers, and no
operation is a fence. -/

namespace Sys2Proof.Machine

/-- A step that completes in front of a run. -/
theorem core_run_succ {M : Host.Core} {s u : M.State} (k : Nat) (h : M.step s = .next u) : M.run (k + 1) s = M.run k u := by
  simp only [Host.Core.run, h]

/-- The same of BCB. -/
theorem run_succ {s u : State} (k : Nat) (h : step s = .next u) : Sys2Proof.core.run (k + 1) s = Sys2Proof.core.run k u :=
  core_run_succ (M := Sys2Proof.core) (s := s) (u := u) k h

/-- A run over the words of operations that go through performs them, and the words after them wait. -/
theorem run_stream (ops : List Instr) {s t : State} (later : List OpWord) (h : performAll ops s = .next t) :
    Sys2Proof.core.run ops.length { s with stream := ops.map encode ++ later } = .next { t with stream := later } := by
  induction ops generalizing s with
  | nil =>
    obtain rfl := Host.Outcome.next.inj h
    rfl
  | cons i rest ih =>
    rw [performAll_cons, andThen_next_iff] at h
    obtain ⟨u, hu, ht⟩ := h
    have performed : step { s with stream := encode i :: (rest.map encode ++ later) } =
        .next { u with stream := rest.map encode ++ later } :=
      (step_ok rfl (decodeEncodeAgree i)).trans (exec_setStream (s := s) _ hu)
    exact (run_succ rest.length performed).trans (ih ht)

/-- A block with DEC after INIT, a pulse of the clock counted: each operation changes it or answers it. -/
def fenceProbe : State :=
  { State.powerUp ⟨Cfg.someAdmitted, by decide⟩ with inited := true, irqEn := true, cnt := 1 }

/-- DECODE answers a word of every kind. -/
theorem route_answers (w : Word) (s : State) : (route w s).answer ≠ .nothing := by
  obtain ⟨-, e⟩ | ⟨-, e⟩ | ⟨p, -, e⟩ | ⟨-, e⟩ := route_cases w s <;> rw [e] <;> exact nofun

/-- No operation is a fence: CLK, LATCH and SAMPLE change the edge counter of an enabled block, INIT and DISABLE the lifecycle
register, the others the answer (R63). -/
theorem no_fence (i : Instr) : ¬ isFence i := by
  cases i with
  | clk d =>
    refine not_isFence (s := fenceProbe) (exec_clk_on d rfl) fun e => ?_
    have counted : satIncr 1 = 1 := congrArg State.cnt e
    exact absurd counted (by decide)
  | latch =>
    refine not_isFence (s := fenceProbe) (exec_latch_on rfl) fun e => ?_
    have cleared : (0 : BitVec 5) = 1 := congrArg State.cnt e
    exact absurd cleared (by decide)
  | sample c l d =>
    refine not_isFence (s := { fenceProbe with clkQ := !c }) rfl fun e => ?_
    have level : c = !c := congrArg State.clkQ e
    cases c <;> cases level
  | init c l =>
    exact not_isFence (s := { fenceProbe with inited := false }) rfl fun e => nomatch (congrArg State.inited e : true = false)
  | disable => exact not_isFence (s := fenceProbe) rfl fun e => nomatch congrArg State.irqEn e
  | pop => exact not_isFence (s := fenceProbe) rfl fun e => nomatch congrArg State.answer e
  | btnw code n => exact not_isFence (s := fenceProbe) rfl fun e => nomatch congrArg State.answer e
  | stat => exact not_isFence (s := fenceProbe) rfl fun e => nomatch congrArg State.answer e
  | classify w => exact not_isFence (s := fenceProbe) rfl fun e => nomatch congrArg State.answer e
  | segdec p w => exact not_isFence (s := fenceProbe) rfl fun e => nomatch congrArg State.answer e
  | leddec w => exact not_isFence (s := fenceProbe) rfl fun e => nomatch congrArg State.answer e
  | decode w => exact not_isFence (s := fenceProbe) rfl fun e => route_answers w fenceProbe (congrArg State.answer e)
  | getdig => exact not_isFence (s := fenceProbe) rfl fun e => nomatch congrArg State.answer e
  | getled => exact not_isFence (s := fenceProbe) rfl fun e => nomatch congrArg State.answer e

/-- Settles O8: `run_stream`, the way `performAll` joins two lists, and `no_fence`. -/
theorem runPerformsStream : Obligations.RunPerformsStream := by
  refine ⟨fun ops s t later h => run_stream ops later h, fun before i s t => ?_, no_fence⟩
  have single (u : State) : performAll [i] u = exec i u := by
    rw [performAll_cons]
    cases exec i u <;> rfl
  rw [performAll_append, andThen_next_iff]
  simp only [single]

/-- Settles O9: INIT and the six DEC operations can refuse, every other operation goes through by definition (R200). -/
theorem everyOperationAnswers : Obligations.EveryOperationAnswers := by
  intro i s
  have dec {n : State} (hi : usesDec i = true) (he : exec i s = withDecode s n) : (∃ t, exec i s = .next t) ∨
      (∃ c l, i = .init c l ∧ s.inited = true ∧ exec i s = .refused .secondInit) ∨
      (usesDec i = true ∧ s.cfg.cfg.hasDecode = false ∧ exec i s = .refused .noDecodeUnit) := by
    rw [he]
    obtain ⟨-, e⟩ | ⟨hoff, e⟩ := withDecode_cases s n
    · exact .inl ⟨n, e⟩
    · exact .inr (.inr ⟨hi, hoff, e⟩)
  cases i with
  | init c l =>
    obtain ⟨-, e⟩ | ⟨hinit, e⟩ := exec_init_cases c l s
    · exact .inl ⟨_, e⟩
    · exact .inr (.inl ⟨c, l, rfl, hinit, e⟩)
  | clk d => exact .inl ⟨_, exec_clk d s⟩
  | latch => exact .inl ⟨_, exec_latch s⟩
  | pop => exact .inl ⟨_, exec_pop s⟩
  | btnw code n => exact .inl ⟨_, exec_btnw code n s⟩
  | stat => exact .inl ⟨_, exec_stat s⟩
  | disable => exact .inl ⟨_, exec_disable s⟩
  | sample c l d => exact .inl ⟨_, exec_sample c l d s⟩
  | classify w => exact dec rfl (exec_classify w s)
  | segdec p w => exact dec rfl (exec_segdec p w s)
  | leddec w => exact dec rfl (exec_leddec w s)
  | decode w => exact dec rfl (exec_decode w s)
  | getdig => exact dec rfl (exec_getdig s)
  | getled => exact dec rfl (exec_getled s)

/-- Settles O58. -/
theorem initOnce : Obligations.InitOnce := by
  intro s c l
  obtain ⟨hnot, e⟩ | ⟨hinit, e⟩ := exec_init_cases c l s
  · exact ⟨fun _ => e, fun hinit => absurd (hnot ▸ hinit) Bool.false_ne_true⟩
  · exact ⟨fun hnot => absurd (hnot ▸ hinit) Bool.false_ne_true, fun _ => e⟩

/-- Settles O59: both runs end in the state with the enable cleared. -/
theorem disableClearsEnable : Obligations.DisableClearsEnable := fun s => ⟨exec_disable s, rfl⟩

end Sys2Proof.Machine

/-! Capture (spec/40_capture.md): what CLK, LATCH and SAMPLE do, and what the words on the wire become. -/

namespace Sys2Proof.Machine

/-- Settles O15. -/
theorem clkShiftsOneBitIn : Obligations.ClkShiftsOneBitIn := by
  intro s d hirq
  rw [exec_clk_on d hirq, clkHandler_eq, shiftIn_eq]
  rfl

/-- Settles O16. -/
theorem producerGated : Obligations.ProducerGated := fun _ _ _ _ hirq =>
  ⟨exec_producer_off rfl hirq, exec_producer_off rfl hirq, exec_producer_off rfl hirq⟩

/-- LATCH of an enabled block is a latch at `acc` and `cnt`. -/
theorem exec_latch_latched {s : State} (hirq : s.irqEn = true) :
    exec .latch s = .next (latched s.acc s.cnt s.clkQ s.latchQ s) := by
  rw [exec_latch_on hirq, latchHandler_eq_latched]

/-- The buffer is full when the cursors are 64 apart (R28). -/
theorem fill_eq_64_iff (s : State) : fill s = 64 ↔ s.wr - s.rd = 64 := by
  unfold fill
  exact ⟨fun h => BitVec.eq_of_toNat_eq h, fun h => by rw [h]; rfl⟩

/-- Settles O18: `latched_eq`, and the ring's read-after-write law for the one cell. -/
theorem latchFrame : Obligations.LatchFrame := by
  intro s hirq
  refine ⟨_, exec_latch_latched hirq, fun a ha => ?other, ?cell, ?wr, ?rd, ?_⟩
  all_goals rw [latched_eq]
  case other =>
    by_cases hcnt : s.cnt = 16
    · simp only [hcnt, if_true]
      exact Memory.read_write_other _ _ (by rwa [cellIndex_eq])
    · simp only [hcnt, if_false]
  case cell =>
    by_cases hcnt : s.cnt = 16
    · simp only [hcnt, if_true, ← cellIndex_eq, Memory.read_write_same]
    · simp only [hcnt, if_false]
  case rd => simp only [fill_eq_64_iff]
  exact ⟨rfl, rfl, rfl, rfl, rfl, rfl, rfl, rfl, rfl, rfl, rfl, rfl, rfl⟩

/-- Settles O19: the optional CLK and the optional LATCH of `edgeDetect_cases` are the operations. -/
theorem sampleEdges : Obligations.SampleEdges := by
  intro s c l d hirq
  rw [exec_sample, if_pos hirq]
  obtain ⟨s1, hclk, hlatch⟩ := edgeDetect_cases c l d hirq
  have clk : (if s.clkQ ≠ c ∧ c = s.cfg.cfg.clkActive then exec (.clk d) s = .next s1 else s1 = s) ∧ s1.irqEn = true := by
    obtain ⟨edge, rfl⟩ | ⟨noEdge, rfl⟩ := hclk
    · rw [if_pos edge]; exact ⟨exec_clk_on d hirq, hirq⟩
    · rw [if_neg noEdge]; exact ⟨rfl, hirq⟩
  obtain ⟨clk, hirq1⟩ := clk
  obtain ⟨edge, e⟩ | ⟨noEdge, e⟩ := hlatch
  · exact ⟨s1, latchHandler s1, clk, by rw [if_pos edge]; exact exec_latch_on hirq1, by rw [e]⟩
  · exact ⟨s1, s1, clk, by rw [if_neg noEdge], by rw [e]⟩

/-! ### Pin-level pulses (R79) -/

/-- A line at its inactive level shows the active edge when it moves to its active level. -/
theorem activeEdge_rise (active : Bool) : activeEdge active (!active) active = true := by revert active; decide

/-- A line that moves to its inactive level shows no active edge. -/
theorem activeEdge_fall (active was : Bool) : activeEdge active was (!active) = false := by revert active was; decide

/-- A line that stays shows no edge. -/
theorem activeEdge_still (active was : Bool) : activeEdge active was was = false := by revert active was; decide

/-- SAMPLE of an enabled block by the two edges it shows (R94). -/
theorem exec_sample_edges {c l d ce le : Bool} {s : State} (hirq : s.irqEn = true)
    (hc : activeEdge s.cfg.cfg.clkActive s.clkQ c = ce) (hl : activeEdge s.cfg.cfg.latchActive s.latchQ l = le) :
    exec (.sample c l d) s = .next (
      let s1 := if ce then clkHandler d s else s
      { (if le then latchHandler s1 else s1) with clkQ := c, latchQ := l }) := by
  rw [exec_sample, if_pos hirq, edgeDetect_on c l d hirq, hc, hl]

/-- Two operations that go through, one after the other. -/
theorem performAll_two {i j : Instr} {s t u : State} (hi : exec i s = .next t) (hj : exec j t = .next u) :
    performAll [i, j] s = .next u := by
  rw [performAll_cons, hi, andThen_next, performAll_cons, hj, andThen_next, performAll_nil]

/-- A pulse on the clock line: the edge performs CLK, the way back nothing, and the line stands as before. -/
theorem performAll_pclk {s : State} (d : Bool) (hirq : s.irqEn = true) (hq : s.clkQ = !s.cfg.cfg.clkActive) :
    performAll (pclkOps s.cfg.cfg s.latchQ d) s = .next (clkHandler d s) := by
  have rise : activeEdge s.cfg.cfg.clkActive s.clkQ s.cfg.cfg.clkActive = true := by rw [hq, activeEdge_rise]
  have up : exec (.sample s.cfg.cfg.clkActive s.latchQ d) s = .next { clkHandler d s with clkQ := s.cfg.cfg.clkActive } :=
    exec_sample_edges hirq rise (activeEdge_still ..)
  have down : exec (.sample (!s.cfg.cfg.clkActive) s.latchQ d) { clkHandler d s with clkQ := s.cfg.cfg.clkActive } =
      .next { clkHandler d s with clkQ := !s.cfg.cfg.clkActive } :=
    exec_sample_edges (s := { clkHandler d s with clkQ := s.cfg.cfg.clkActive }) hirq (activeEdge_fall ..) (activeEdge_still ..)
  rw [pclkOps, performAll_two up down, ← hq]
  rfl

/-- A pulse on the latch line: the edge performs LATCH, the way back nothing, and the line stands as before. -/
theorem performAll_platch {s : State} (hirq : s.irqEn = true) (hq : s.latchQ = !s.cfg.cfg.latchActive) :
    performAll (platchOps s.cfg.cfg s.clkQ) s = .next (latchHandler s) := by
  have rise : activeEdge s.cfg.cfg.latchActive s.latchQ s.cfg.cfg.latchActive = true := by rw [hq, activeEdge_rise]
  have kept : (latchHandler s).irqEn = s.irqEn ∧ (latchHandler s).cfg = s.cfg ∧ (latchHandler s).clkQ = s.clkQ ∧
      (latchHandler s).latchQ = s.latchQ := by
    rw [latchHandler_eq]; exact ⟨rfl, rfl, rfl, rfl⟩
  obtain ⟨hirq', hcfg, hclkQ, hlatchQ⟩ := kept
  have up : exec (.sample s.clkQ s.cfg.cfg.latchActive false) s =
      .next { latchHandler s with clkQ := s.clkQ, latchQ := s.cfg.cfg.latchActive } :=
    exec_sample_edges hirq (activeEdge_still ..) rise
  have down : exec (.sample s.clkQ (!s.cfg.cfg.latchActive) false)
      { latchHandler s with clkQ := s.clkQ, latchQ := s.cfg.cfg.latchActive } =
      .next { latchHandler s with clkQ := s.clkQ, latchQ := !s.cfg.cfg.latchActive } := by
    refine exec_sample_edges (ce := false) (le := false)
      (s := { latchHandler s with clkQ := s.clkQ, latchQ := s.cfg.cfg.latchActive }) (hirq'.trans hirq)
      (activeEdge_still ..) ?_
    rw [hcfg, activeEdge_fall]
  rw [platchOps, performAll_two up down, ← hq, ← hclkQ, ← hlatchQ]

/-- Settles O20. -/
theorem pinPulsesAreEvents : Obligations.PinPulsesAreEvents := by
  refine fun s d hirq => ⟨fun hclk => ?_, fun hlatch => ?_⟩
  · rw [performAll_pclk d hirq hclk, exec_clk_on d hirq]
  · rw [performAll_platch hirq hlatch, exec_latch_on hirq]

/-! ### Words on the wire -/

/-- Settles O21, by induction on the levels, the last one first: CLK doubles and adds. -/
theorem clocksCollectTheWord : Obligations.ClocksCollectTheWord := by
  intro s ds hirq hacc hcnt
  induction ds using List.reverseRecOn with
  | nil =>
    have same : { s with acc := BitVec.ofNat 16 (wireValue []), cnt := BitVec.ofNat 5 (min ([] : List Bool).length 31) } = s := by
      change { s with acc := 0, cnt := 0 } = s
      rw [← hacc, ← hcnt]
    rw [same]
    rfl
  | append_singleton ds d ih =>
    have shifted : BitVec.ofNat 16 (2 * (BitVec.ofNat 16 (wireValue ds)).toNat + d.toNat) =
        BitVec.ofNat 16 (wireValue (ds ++ [d])) := by
      apply BitVec.eq_of_toNat_eq
      rw [wireValue_append]
      simp only [BitVec.toNat_ofNat]
      omega
    have counted : satIncr (BitVec.ofNat 5 (min ds.length 31)) = BitVec.ofNat 5 (min (ds ++ [d]).length 31) := by
      apply BitVec.eq_of_toNat_eq
      simp only [satIncr, BitVec.toNat_ofNat, List.length_append, List.length_singleton]
      omega
    rw [clkOps, List.map_append, performAll_append, ← clkOps, ih, andThen_next, List.map_singleton, performAll_cons,
      exec_clk_on d (by exact hirq), andThen_next, performAll_nil, clkHandler_eq, shiftIn_eq, shifted, counted]

/-- A block between two words: the handlers enabled, nothing captured (R93). -/
structure BetweenWords (s : State) : Prop where
  irqEn : s.irqEn = true
  acc : s.acc = 0
  cnt : s.cnt = 0

/-- A latch of an enabled block leaves it between two words. -/
theorem latched_betweenWords (a : Word) (n : BitVec 5) (c l : Bool) {s : State} (hirq : s.irqEn = true) :
    BetweenWords (latched a n c l s) := by
  rw [latched_eq]; exact ⟨hirq, rfl, rfl⟩

/-- Clock edges and a latch, from between two words: a latch at the word of the wire and the number of edges (R92, R93). -/
theorem performAll_word {s : State} (ds : List Bool) (hs : BetweenWords s) :
    performAll (clkOps ds ++ [.latch]) s = .next
      (latched (BitVec.ofNat 16 (wireValue ds)) (BitVec.ofNat 5 (min ds.length 31)) s.clkQ s.latchQ s) := by
  rw [performAll_append, clocksCollectTheWord s ds hs.irqEn hs.acc hs.cnt, andThen_next, performAll_cons,
    exec_latch_latched (by exact hs.irqEn)]
  rfl

/-- `FRAME v` from between two words is a latch at `v` of 16 edges (R79). -/
theorem performAll_frame {s : State} (v : Word) (hs : BetweenWords s) :
    performAll (frameOps v) s = .next (latched v 16 s.clkQ s.latchQ s) := by
  rw [frameOps, framenOps, performAll_word _ hs, wireValue_frame, frameLevels_length]
  rfl

/-- The edge counter shows 16 exactly after sixteen edges (R21, R93). -/
theorem count_eq_16_iff (k : Nat) : BitVec.ofNat 5 (min k 31) = 16 ↔ k = 16 := by
  constructor
  · intro h
    have value : min k 31 % 32 = 16 := congrArg BitVec.toNat h
    omega
  · rintro rfl; rfl

/-- Settles O22: `performAll_word`, and the counter is 16 exactly for sixteen edges. -/
theorem latchKeepsSixteenEdges : Obligations.LatchKeepsSixteenEdges := by
  intro s ds hirq hacc hcnt hfill
  have between := latched_betweenWords (BitVec.ofNat 16 (wireValue ds)) (BitVec.ofNat 5 (min ds.length 31)) s.clkQ s.latchQ hirq
  refine ⟨_, performAll_word ds ⟨hirq, hacc, hcnt⟩, between.acc, between.cnt, between.irqEn, ?_⟩
  rw [queue_latched _ _ _ _ hfill]
  simp only [count_eq_16_iff]

/-- `FRAME v` pushes `v` and leaves the block between two words. -/
theorem frame_pushes {s : State} (v : Word) (hs : BetweenWords s) (hfill : fill s ≤ 64) :
    ∃ t, performAll (frameOps v) s = .next t ∧ queue t = pushQueue (queue s) v ∧ BetweenWords t := by
  refine ⟨_, performAll_frame v hs, ?_, latched_betweenWords _ _ _ _ hs.irqEn⟩
  rw [queue_latched _ _ _ _ hfill, if_pos rfl]

/-- Settles O23. -/
theorem framePushes : Obligations.FramePushes := by
  intro s v hirq hacc hcnt hfill
  obtain ⟨t, hrun, hqueue, between⟩ := frame_pushes v ⟨hirq, hacc, hcnt⟩ hfill
  exact ⟨t, hrun, hqueue, between.acc, between.cnt⟩

end Sys2Proof.Machine

/-! The ring buffer as the abstract queue (spec/10_state.md R29, spec/41_ring_buffer.md). -/

namespace Sys2Proof.Machine

/-- Settles O28. -/
theorem latchRefinesQueue : Obligations.LatchRefinesQueue := fun _ hirq hfill =>
  ⟨_, exec_latch_latched hirq, queue_latched _ _ _ _ hfill⟩

/-- POP of a queue that is not empty returns the head and leaves the tail (R113). -/
theorem pop_cons {s : State} {v : Word} {q : List Word} (h : queue s = v :: q) :
    exec .pop s = .next { s with rd := s.rd + 1, answer := .pop true v } ∧
    queue { s with rd := s.rd + 1, answer := .pop true v } = q := by
  have level : fill s ≠ 0 := by rw [← queue_length, h]; exact Nat.succ_ne_zero _
  rw [queue_advance s level (.pop true v)] at h
  obtain ⟨head, tail⟩ := List.cons.inj h
  refine ⟨?_, tail⟩
  obtain ⟨hempty, -⟩ | ⟨-, e⟩ := takeOldest_cases s
  · exact absurd hempty level
  · rw [exec_pop, e, head]

/-- Settles O29. -/
theorem popRefinesQueue : Obligations.PopRefinesQueue := by
  refine fun s => ⟨fun hempty => ?_, fun v q h => pop_cons h⟩
  have level : fill s = 0 := by rw [← queue_length, hempty]; rfl
  obtain ⟨-, e⟩ | ⟨hne, -⟩ := takeOldest_cases s
  · rw [exec_pop, e]
  · exact absurd level hne

/-- One more word behind the last 64 of a list gives the last 64 of the longer list (R112). -/
theorem pushQueue_drop (vs : List Word) (v : Word) :
    pushQueue (vs.drop (vs.length - 64)) v = (vs ++ [v]).drop ((vs ++ [v]).length - 64) := by
  unfold pushQueue
  by_cases hfull : 64 ≤ vs.length
  · have full : (vs.drop (vs.length - 64)).length = 64 := by rw [List.length_drop]; omega
    rw [if_pos full, List.tail_drop, List.drop_append_of_le_length (by simp)]
    congr 2
    simp; omega
  · have room : (vs.drop (vs.length - 64)).length ≠ 64 := by rw [List.length_drop]; omega
    have nothing : vs.length - 64 = 0 := by omega
    have nothing' : (vs ++ [v]).length - 64 = 0 := by simp; omega
    rw [if_neg room, nothing, nothing', List.drop_zero, List.drop_zero]

/-- Framed words, from between two words and an empty buffer: the queue holds the last 64 of them. -/
theorem frames_keep_last_64 {s : State} (vs : List Word) (hs : BetweenWords s) (hempty : fill s = 0) :
    ∃ t, performAll (vs.flatMap frameOps) s = .next t ∧ queue t = vs.drop (vs.length - 64) ∧ BetweenWords t := by
  induction vs using List.reverseRecOn with
  | nil =>
    have nothing : queue s = [] := List.length_eq_zero_iff.1 ((queue_length s).trans hempty)
    exact ⟨s, rfl, nothing, hs⟩
  | append_singleton vs v ih =>
    obtain ⟨t, hrun, hqueue, between⟩ := ih
    have level : fill t ≤ 64 := by rw [← queue_length, hqueue, List.length_drop]; omega
    obtain ⟨u, hframe, hpushed, between'⟩ := frame_pushes v between level
    refine ⟨u, ?_, ?_, between'⟩
    · rw [List.flatMap_append, List.flatMap_singleton, performAll_append, hrun, andThen_next, hframe]
    · rw [hpushed, hqueue, pushQueue_drop]

/-- Settles O32. -/
theorem overflowKeepsLast64 : Obligations.OverflowKeepsLast64 := by
  intro s vs hirq hacc hcnt hempty
  obtain ⟨t, hrun, hqueue, -⟩ := frames_keep_last_64 vs ⟨hirq, hacc, hcnt⟩ hempty
  exact ⟨t, hrun, hqueue⟩

/-- Settles O33, by induction on the samples in front: each POP takes the head (`pop_cons`). -/
theorem popOrder : Obligations.PopOrder := by
  intro s q1 q2 v h
  induction q1 generalizing s with
  | nil =>
    obtain ⟨hpop, hqueue⟩ := pop_cons h
    exact ⟨_, by rw [List.length_nil, Nat.zero_add, List.replicate_one, performAll_cons, hpop]; rfl, rfl, hqueue⟩
  | cons w q1 ih =>
    obtain ⟨hpop, hqueue⟩ := pop_cons h
    obtain ⟨t, hrun, hanswer, hrest⟩ := ih _ hqueue
    exact ⟨t, by rw [List.length_cons, List.replicate_succ, performAll_cons, hpop, andThen_next, hrun], hanswer, hrest⟩

/-- Settles O34: the abstract queue through POP (`pop_cons`) and a latch (`queue_latched`) in either order. -/
theorem popAndLatchBothOrders : Obligations.PopAndLatchBothOrders := by
  intro s v1 v2 q hirq hcnt hfill hqueue
  refine ⟨?popFirst, ?latchFirst⟩
  case popFirst =>
    obtain ⟨hpop, hrest⟩ := pop_cons hqueue
    have level : fill { s with rd := s.rd + 1, answer := .pop true v1 } + 1 = 64 := by
      rw [← queue_length, hrest, ← hfill, ← queue_length, hqueue]; rfl
    refine ⟨_, performAll_two hpop (exec_latch_latched (by exact hirq)), by rw [latched_eq], ?_⟩
    rw [queue_latched _ _ _ _ (by omega), if_pos (by exact hcnt), pushQueue_room _ _ (by omega), hrest]
  case latchFirst =>
    have pushed : queue (latched s.acc s.cnt s.clkQ s.latchQ s) = v2 :: (q ++ [s.acc]) := by
      rw [queue_latched _ _ _ _ hfill.le, if_pos hcnt, pushQueue_full _ _ hfill, hqueue]; rfl
    obtain ⟨hpop, hrest⟩ := pop_cons pushed
    exact ⟨_, performAll_two (exec_latch_latched hirq) hpop, rfl, hrest⟩

end Sys2Proof.Machine

/-! The status word and the sequencer as the host sees them (spec/41_ring_buffer.md R116, spec/42_button_sequencer.md). -/

namespace Sys2Proof.Machine

/-- A word put in front of another counts in units above it. -/
theorem toNat_append_eq_add {m n : Nat} (x : BitVec m) (y : BitVec n) : (x ++ y).toNat = x.toNat * 2 ^ n + y.toNat := by
  rw [BitVec.toNat_append, ← Nat.shiftLeft_add_eq_or_of_lt y.isLt, Nat.shiftLeft_eq]

/-- The status word as a number, flag by flag (R116). -/
theorem statusWord_toNat (s : State) : (statusWord s).toNat = fill s + 128 * (isEmpty s).toNat + 256 * (isFull s).toNat
    + 512 * (busy s).toNat + 1024 * s.outLow.toNat + 2048 * s.irqEn.toNat + 4096 * s.inited.toNat := by
  simp only [statusWord, toNat_append_eq_add, BitVec.toNat_ofBool, fill]
  omega

/-- Settles O35: the fields of `statusWord_toNat` are the flags of R28 and R30. -/
theorem statWord : Obligations.StatWord := by
  intro s
  have empty : isEmpty s = decide (s.wr = s.rd) := by
    rw [isEmpty, Bool.eq_iff_iff, beq_iff_eq, fill_eq_zero_iff, decide_eq_true_iff]
  have full : isFull s = decide (fill s = 64) := by rw [isFull, Bool.eq_iff_iff, beq_iff_eq, decide_eq_true_iff]
  have busyFlag : busy s = decide (s.btnRem ≠ 0 ∨ s.outLow = true) := by rw [Bool.eq_iff_iff, busy_iff, decide_eq_true_iff]
  exact ⟨statusWord s, exec_stat s, by rw [statusWord_toNat, empty, full, busyFlag]⟩

/-- A block is not busy when no pulse is left and the line is released (R30). -/
theorem not_busy_iff (s : State) : busy s = false ↔ s.btnRem = 0 ∧ s.outLow = false := by simp [busy]

/-- Settles O36. -/
theorem btnwAcceptsOrRefuses : Obligations.BtnwAcceptsOrRefuses := by
  refine fun s code n => ⟨fun hbusy => ?refuses, fun hidle => ⟨?accepts, ?_⟩⟩
  case refuses =>
    obtain ⟨-, e⟩ | ⟨hidle, -⟩ := submit_cases code n s
    · rw [exec_btnw, e]
    · rw [(busy_iff s).2 hbusy] at hidle; cases hidle
  case accepts =>
    obtain ⟨hbusy, -⟩ | ⟨-, e⟩ := submit_cases code n s
    · rw [(not_busy_iff s).2 hidle] at hbusy; cases hbusy
    · rw [exec_btnw, e]
  rw [not_busy_iff]
  exact ⟨fun h => h.1, fun h => ⟨h, hidle.2⟩⟩

/-- SEQ_STEP with the line low releases it (R133). -/
theorem seqStep_low (a : Word) {s : State} (h : s.outLow = true) : seqStep a s = { s with outLow := false } := by
  obtain ⟨-, e⟩ | ⟨hline, -⟩ | ⟨hline, -⟩ := seqStep_cases a s
  · exact e
  · rw [h] at hline; cases hline
  · rw [h] at hline; cases hline

/-- SEQ_STEP at the code of an active request with the line released drives it low (R133). -/
theorem seqStep_match {a : Word} {s : State} (hline : s.outLow = false) (hrem : s.btnRem ≠ 0) (ha : a = s.btnCode) :
    seqStep a s = { s with outLow := true, btnRem := s.btnRem - 1 } := by
  obtain ⟨hlow, -⟩ | ⟨-, -, -, e⟩ | ⟨-, hnone | hne, -⟩ := seqStep_cases a s
  · rw [hline] at hlow; cases hlow
  · exact e
  · exact absurd hnone hrem
  · exact absurd ha hne

/-- With the line released the block is busy exactly while pulses are left (R30). -/
theorem busy_iff_pulses_left {s : State} (hline : s.outLow = false) : busy s = true ↔ 0 < s.btnRem.toNat := by
  rw [busy_iff, hline, Nat.pos_iff_ne_zero, ne_eq, ← BitVec.toNat_inj]
  simp

/-- One pulse fewer. -/
theorem toNat_pred {n : BitVec 8} (h : n ≠ 0) : (n - 1).toNat = n.toNat - 1 ∧ n.toNat ≠ 0 := by
  constructor <;> bv_omega

/-- Settles O37: the three arms of SEQ_STEP at `acc`. -/
theorem latchAdvancesSequencer : Obligations.LatchAdvancesSequencer := by
  intro s hirq
  obtain ⟨hline, hrem, hcode⟩ := latched_sequencer s.acc s.cnt s.clkQ s.latchQ s
  refine ⟨_, exec_latch_latched hirq, hcode, ?_⟩
  rw [hline, hrem]
  refine ⟨fun hlow => ?release, fun hhigh hleft ha => ?drive, fun hhigh hno => ?stay⟩
  case release => rw [seqStep_low _ hlow]; exact ⟨rfl, rfl⟩
  case drive =>
    rw [seqStep_match hhigh hleft ha]
    obtain ⟨pred, nonzero⟩ := toNat_pred hleft
    refine ⟨rfl, ?_⟩
    change (s.btnRem - 1).toNat + 1 = _
    omega
  case stay => rw [seqStep_no_match hhigh hno]; exact ⟨hhigh, rfl⟩

/-- One round of the scanned bus: the code drives the line low, the next word, whatever it is, releases it (R134). -/
theorem performAll_round {s : State} (v : Word) (hs : BetweenWords s) (hline : s.outLow = false) (hrem : s.btnRem ≠ 0) :
    ∃ t, performAll (frameOps s.btnCode ++ frameOps v) s = .next t ∧ BetweenWords t ∧ t.outLow = false ∧
      t.btnCode = s.btnCode ∧ t.btnRem = s.btnRem - 1 := by
  have between := latched_betweenWords s.btnCode 16 s.clkQ s.latchQ hs.irqEn
  obtain ⟨hlow, hdriven, hcode⟩ := latched_sequencer s.btnCode 16 s.clkQ s.latchQ s
  rw [seqStep_match hline hrem rfl] at hlow hdriven
  have driven := performAll_frame s.btnCode hs
  generalize latched s.btnCode 16 s.clkQ s.latchQ s = u at *
  obtain ⟨hreleased, hkept, hcode'⟩ := latched_sequencer v 16 u.clkQ u.latchQ u
  rw [seqStep_low v hlow] at hreleased hkept
  exact ⟨_, by rw [performAll_append, driven, andThen_next, performAll_frame v between],
    latched_betweenWords _ _ _ _ between.irqEn, hreleased, hcode'.trans hcode, hkept.trans hdriven⟩

/-- Settles O40, by induction on the rounds. -/
theorem pulseCycleOnScannedBus : Obligations.PulseCycleOnScannedBus := by
  intro s others hirq hacc hcnt hline hle
  have between : BetweenWords s := ⟨hirq, hacc, hcnt⟩
  clear hirq hacc hcnt
  induction others generalizing s with
  | nil =>
    exact ⟨s, rfl, rfl, hline, rfl, busy_iff_pulses_left hline⟩
  | cons v others ih =>
    rw [List.length_cons] at hle ⊢
    have hrem : s.btnRem ≠ 0 := by rintro e; rw [e] at hle; exact absurd hle (by simp)
    obtain ⟨pred, -⟩ := toNat_pred hrem
    obtain ⟨u, hround, hu, huline, hucode, hucount⟩ := performAll_round v between hline hrem
    obtain ⟨t, hrun, hcount, htline, htcode, hbusy⟩ := ih u huline (by rw [hucount, pred]; omega) hu
    rw [hucount, pred] at hcount hbusy
    refine ⟨t, ?_, by omega, htline, htcode.trans hucode, hbusy.trans (by omega)⟩
    rw [List.flatMap_cons, performAll_append, hround, andThen_next, ← hucode, hrun]

/-- Settles O41: one operation by `exec_unmatched`, a run by `performAll_unmatched`; a framed word other than the code is a latch
at that word. -/
theorem unmatchedRequestNeverEnds : Obligations.UnmatchedRequestNeverEnds := by
  refine ⟨fun i s t hline hrem hne h => exec_unmatched hline hrem hne h,
    fun ops s t hline hrem hne h => performAll_unmatched hline hrem hne h, fun s vs hirq hacc hcnt hline hrem hne => ?_⟩
  have between : BetweenWords s := ⟨hirq, hacc, hcnt⟩
  clear hirq hacc hcnt
  induction vs generalizing s with
  | nil => exact ⟨s, rfl, requestWaits_of_kept hline hrem rfl rfl rfl⟩
  | cons v vs ih =>
    have other : v ≠ s.btnCode := hne v List.mem_cons_self
    obtain ⟨hl, hr, hc⟩ := latched_sequencer v 16 s.clkQ s.latchQ s
    rw [seqStep_no_match hline (.inr other)] at hl hr
    obtain ⟨t, hrun, hwaits⟩ := ih _ (hl.trans hline) (hr ▸ hrem) (fun w hw => hc ▸ hne w (List.mem_cons_of_mem v hw))
      (latched_betweenWords v 16 s.clkQ s.latchQ between.irqEn)
    refine ⟨t, ?_, requestWaits_trans (requestWaits_of_kept hline hrem hr hc hl) hwaits⟩
    rw [List.flatMap_cons, performAll_append, performAll_frame v between, andThen_next, hrun]

end Sys2Proof.Machine

/-! Decode assist (spec/43_decode_assist.md): the classifier, the segment decode, the LED debounce, the getters, and the block without
DEC. -/

namespace Sys2Proof.Machine

/-- In a block without DEC a DEC operation is refused (R150). -/
theorem withDecode_off {s : State} (n : State) (h : s.cfg.cfg.hasDecode = false) :
    withDecode s n = .refused .noDecodeUnit := by
  obtain ⟨hon, -⟩ | ⟨-, refused⟩ := withDecode_cases s n
  · rw [h] at hon; cases hon
  · exact refused

/-- Settles O56. -/
theorem decAbsentRefused : Obligations.DecAbsentRefused := fun _ _ _ hoff =>
  ⟨withDecode_off _ hoff, withDecode_off _ hoff, withDecode_off _ hoff, withDecode_off _ hoff, withDecode_off _ hoff,
    withDecode_off _ hoff⟩

/-- Settles O43: the chain of `classify`, one test at a time, each test by `echo_iff` or `passes_iff`. -/
theorem classifyOrder : Obligations.ClassifyOrder := by
  intro s w hDec
  refine ⟨(classify s.cfg.cfg w).code, by rw [exec_classify, withDecode_on _ hDec], ?_⟩
  generalize s.cfg.cfg = c
  dsimp only
  by_cases echo : isEcho c w = true
  · rw [if_pos ((echo_iff c w).1 echo), classify, if_pos echo]; rfl
  rw [if_neg (mt (echo_iff c w).2 echo)]
  by_cases d0 : passes c.digitTest[0] w = true
  · rw [if_pos ((passes_iff ..).1 d0), classify, if_neg echo, if_pos d0]; rfl
  rw [if_neg (mt (passes_iff ..).2 d0)]
  by_cases d1 : passes c.digitTest[1] w = true
  · rw [if_pos ((passes_iff ..).1 d1), classify, if_neg echo, if_neg d0, if_pos d1]; rfl
  rw [if_neg (mt (passes_iff ..).2 d1)]
  by_cases d2 : passes c.digitTest[2] w = true
  · rw [if_pos ((passes_iff ..).1 d2), classify, if_neg echo, if_neg d0, if_neg d1, if_pos d2]; rfl
  rw [if_neg (mt (passes_iff ..).2 d2)]
  by_cases d3 : passes c.digitTest[3] w = true
  · rw [if_pos ((passes_iff ..).1 d3), classify, if_neg echo, if_neg d0, if_neg d1, if_neg d2, if_pos d3]; rfl
  rw [if_neg (mt (passes_iff ..).2 d3)]
  by_cases led : passes c.ledTest w = true
  · rw [if_pos ((passes_iff ..).1 led), classify, if_neg echo, if_neg d0, if_neg d1, if_neg d2, if_neg d3, if_pos led]; rfl
  rw [if_neg (mt (passes_iff ..).2 led)]
  rw [classify, if_neg echo, if_neg d0, if_neg d1, if_neg d2, if_neg d3, if_neg led]; rfl

/-! ### Segments -/

/-- Every table entry of an admitted configuration decodes to its own index (R157): an entry is found, and the entries are
distinct. -/
theorem decodeGlyph_table (c : WfCfg) (g : Glyph) : decodeGlyph c.cfg c.cfg.segTable[g] = some g := by
  cases found : decodeGlyph c.cfg c.cfg.segTable[g] with
  | none => exact absurd rfl ((decodeGlyph_none_iff ..).1 found g)
  | some h => rw [c.segTable_inj (decodeGlyph_some found)]

/-- SEGDEC of a pattern in the table stores its glyph (R155). -/
theorem segdec_hit {s : State} (p : BitVec 2) {w : Word} {g : Glyph} (hDec : s.cfg.cfg.hasDecode = true)
    (h : ~~~w &&& s.cfg.cfg.segMask = s.cfg.cfg.segTable[g]) : exec (.segdec p w) s = .next { s with
      digit := s.digit.set p.toNat g p.isLt
      answer := .segdec true (p == 3) } := by
  have found : segGlyph s w = some g := by rw [segGlyph, segPattern, h, decodeGlyph_table s.cfg g]
  rw [exec_segdec, withDecode_on _ hDec, segDecode_eq, found, newDigits_some]
  rfl

/-- Settles O45. -/
theorem segdecHit : Obligations.SegdecHit := fun _ p _ _ hDec h => segdec_hit p hDec h

/-- Settles O46: no glyph is found, so no slot is written. -/
theorem segdecMiss : Obligations.SegdecMiss := by
  intro s p w hDec h
  have missed : segGlyph s w = none := (decodeGlyph_none_iff ..).2 fun g => (h g).symm
  rw [exec_segdec, withDecode_on _ hDec, segDecode_eq, missed, newDigits_none]
  rfl

/-- Settles O47: an entry has no bit outside the segment mask, so its complement has the entry's segment bits. -/
theorem segTableDecodesToItself : Obligations.SegTableDecodesToItself := by
  refine fun c g => ⟨decodeGlyph_table c g, fun s t p hcfg h => ?_⟩
  have masked : ~~~(~~~c.cfg.segTable[g]) &&& c.cfg.segMask = c.cfg.segTable[g] := by
    have inside := c.segTable_masked g
    apply BitVec.eq_of_getLsbD_eq
    intro i hi
    have bit := congrArg (fun v : Word => v.getLsbD i) inside
    simp [hi] at bit ⊢
    exact bit
  subst hcfg
  rw [exec_segdec] at h
  obtain ⟨hDec, -⟩ := withDecode_next h
  rw [← exec_segdec, segdec_hit p hDec masked] at h
  obtain rfl := Host.Outcome.next.inj h
  exact Vector.getElem_set_self ..

/-! ### LEDs -/

/-- What a completed LEDDEC did. -/
theorem leddec_next {s t : State} {w : Word} (h : exec (.leddec w) s = .next t) :
    t = { s with
      ledTent := newTent s.cfg.cfg w s.ledTent s.ledPub
      ledPub := newPub s.cfg.cfg w s.ledTent s.ledPub
      answer := .leddec (eventBits s.ledPub (newPub s.cfg.cfg w s.ledTent s.ledPub)) } := by
  rw [exec_leddec] at h
  exact (withDecode_next h).2

/-- LEDDEC of a block with DEC. -/
theorem exec_leddec_on {s : State} (w : Word) (hDec : s.cfg.cfg.hasDecode = true) : exec (.leddec w) s = .next { s with
      ledTent := newTent s.cfg.cfg w s.ledTent s.ledPub
      ledPub := newPub s.cfg.cfg w s.ledTent s.ledPub
      answer := .leddec (eventBits s.ledPub (newPub s.cfg.cfg w s.ledTent s.ledPub)) } := by
  rw [exec_leddec, withDecode_on _ hDec]; rfl

/-- Settles O48. -/
theorem rawLedInverted : Obligations.RawLedInverted := fun s w hDec =>
  ⟨_, exec_leddec_on w hDec, fun k => newTent_bit s.cfg.cfg w s.ledTent s.ledPub k⟩

/-- Settles O49. -/
theorem leddecDebounces : Obligations.LeddecDebounces := fun s w hDec =>
  ⟨_, _, _, exec_leddec_on w hDec, fun k => newPub_bit s.cfg.cfg w s.ledTent s.ledPub k,
    fun k => newTent_bit s.cfg.cfg w s.ledTent s.ledPub k⟩

/-- The flags bit by bit (R38): power, heatingEnabled, heating, filter, bubbles. -/
theorem ledFlags_bits (pub : BitVec 5) : (ledFlags pub).getLsbD 0 = pub.getLsbD 0 ∧
    (ledFlags pub).getLsbD 1 = (pub.getLsbD 3 || pub.getLsbD 2) ∧ (ledFlags pub).getLsbD 2 = pub.getLsbD 3 ∧
    (ledFlags pub).getLsbD 3 = pub.getLsbD 4 ∧ (ledFlags pub).getLsbD 4 = pub.getLsbD 1 :=
  ⟨bits5_bit0 .., bits5_bit1 .., bits5_bit2 .., bits5_bit3 .., bits5_bit4 ..⟩

/-- An event bit is set when its flag differs (R160). -/
theorem eventBits_bit (was now : BitVec 5) (k : Nat) :
    (eventBits was now).getLsbD k = true ↔ (ledFlags was).getLsbD k ≠ (ledFlags now).getLsbD k := by
  rw [eventBits, BitVec.getLsbD_xor, bne_iff_ne]

/-- Settles O50: `eventBits_bit` at each flag of `ledFlags_bits`. -/
theorem ledEventsAreFlagChanges : Obligations.LedEventsAreFlagChanges := by
  intro s t w ev h hev
  obtain rfl := leddec_next h
  obtain rfl : eventBits s.ledPub _ = ev := Answer.leddec.inj hev
  obtain ⟨was0, was1, was2, was3, was4⟩ := ledFlags_bits s.ledPub
  obtain ⟨now0, now1, now2, now3, now4⟩ := ledFlags_bits (newPub s.cfg.cfg w s.ledTent s.ledPub)
  refine ⟨?_, ?_, ?_, ?_, ?_⟩ <;> rw [eventBits_bit]
  · rw [was0, now0]
  · rw [was1, now1]
  · rw [was2, now2]
  · rw [was3, now3]
  · rw [was4, now4]

/-- Settles O55. -/
theorem getledFlags : Obligations.GetledFlags := fun s hDec =>
  ⟨ledFlags s.ledPub, withDecode_on _ hDec, ledFlags_bits s.ledPub⟩

/-- An operation that reads no LED-bank word leaves both LED sets (R161). -/
theorem exec_keeps_leds {i : Instr} {s t : State} (hi : readsLedBank s.cfg.cfg i = false) (h : exec i s = .next t) :
    t.ledTent = s.ledTent ∧ t.ledPub = s.ledPub := by
  cases i with
  | clk d => exact ⟨(producer_keeps rfl h).ledTent, (producer_keeps rfl h).ledPub⟩
  | latch => exact ⟨(producer_keeps rfl h).ledTent, (producer_keeps rfl h).ledPub⟩
  | sample c l d => exact ⟨(producer_keeps rfl h).ledTent, (producer_keeps rfl h).ledPub⟩
  | pop =>
    obtain rfl := Host.Outcome.next.inj h
    obtain ⟨-, e⟩ | ⟨-, e⟩ := takeOldest_cases s <;> exact e ▸ ⟨rfl, rfl⟩
  | btnw code n =>
    obtain rfl := Host.Outcome.next.inj h
    obtain ⟨-, e⟩ | ⟨-, e⟩ := submit_cases code n s <;> exact e ▸ ⟨rfl, rfl⟩
  | stat => obtain rfl := Host.Outcome.next.inj h; exact ⟨rfl, rfl⟩
  | disable => obtain rfl := Host.Outcome.next.inj h; exact ⟨rfl, rfl⟩
  | init c l => obtain ⟨-, rfl⟩ := init_next h; exact ⟨rfl, rfl⟩
  | classify w => obtain ⟨-, rfl⟩ := withDecode_next h; exact ⟨rfl, rfl⟩
  | segdec p w => obtain ⟨-, rfl⟩ := withDecode_next h; exact ⟨rfl, rfl⟩
  | getdig => obtain ⟨-, rfl⟩ := withDecode_next h; exact ⟨rfl, rfl⟩
  | getled => obtain ⟨-, rfl⟩ := withDecode_next h; exact ⟨rfl, rfl⟩
  | leddec w => cases hi
  | decode w =>
    obtain ⟨-, rfl⟩ := withDecode_next h
    obtain ⟨-, e⟩ | ⟨-, e⟩ | ⟨p, -, e⟩ | ⟨hled, -⟩ := route_cases w s
    · rw [e]; exact ⟨rfl, rfl⟩
    · rw [e]; exact ⟨rfl, rfl⟩
    · rw [e]; exact ⟨rfl, rfl⟩
    · rw [readsLedBank, hled] at hi; cases hi

/-- A run that reads no LED-bank word leaves both LED sets and the configuration (R161). -/
theorem performAll_keeps_leds {ops : List Instr} {s t : State} (hops : ∀ i ∈ ops, readsLedBank s.cfg.cfg i = false)
    (h : performAll ops s = .next t) : t.cfg = s.cfg ∧ t.ledTent = s.ledTent ∧ t.ledPub = s.ledPub := by
  refine performAll_keeps (P := fun u => u.cfg = s.cfg ∧ u.ledTent = s.ledTent ∧ u.ledPub = s.ledPub) ?_ ⟨rfl, rfl, rfl⟩ h
  rintro i hi u v ⟨hcfg, htent, hpub⟩ huv
  obtain ⟨htent', hpub'⟩ := exec_keeps_leds (by rw [hcfg]; exact hops i hi) huv
  exact ⟨(exec_fixed huv).1.trans hcfg, htent'.trans htent, hpub'.trans hpub⟩

/-- Settles O51: the tentative set of the second read is the first word's raw bits (`newTent_bit`). -/
theorem consecutiveLedReads : Obligations.ConsecutiveLedReads := by
  intro s s1 t u w1 w2 ops hops h1 hrun h2
  obtain rfl := leddec_next h1
  obtain ⟨hcfg, htent, hpub⟩ := performAll_keeps_leds (by exact hops) hrun
  obtain rfl := leddec_next h2
  refine ⟨htent, hpub, fun k => ?_⟩
  change (newPub t.cfg.cfg w2 t.ledTent t.ledPub).getLsbD k = _
  rw [newPub_bit, hcfg, htent, hpub, newTent_bit]
  by_cases agree : rawLed s.cfg.cfg w1 k = rawLed s.cfg.cfg w2 k
  · rw [if_pos agree, if_pos agree.symm]
  · rw [if_neg agree, if_neg fun e => agree e.symm]

/-- From settled sets any one word publishes nothing new (R159). -/
theorem newPub_settled (c : Cfg) (w : Word) (pub : BitVec 5) : newPub c w pub pub = pub := by
  refine bits5_ext fun k => ?_
  rw [newPub_bit]
  split
  case isTrue agree => exact agree
  case isFalse => rfl

/-- A word that shows the published set publishes nothing new (R159). -/
theorem newPub_same {c : Cfg} {w : Word} (tent : BitVec 5) {pub : BitVec 5} (h : ∀ k : Fin 5, rawLed c w k = pub.getLsbD k) :
    newPub c w tent pub = pub := by
  refine bits5_ext fun k => ?_
  rw [newPub_bit, h]
  split <;> rfl

/-- Settles O52: the flip publishes nothing because the sets were settled (`newPub_settled`), the way back because it shows the
published set (`newPub_same`); with the published set kept no flag changes (`eventBits_self`). -/
theorem glitchPublishesNothing : Obligations.GlitchPublishesNothing := by
  intro s s1 t u w1 w2 ops hops hsettled hback h1 hrun h2
  obtain rfl := leddec_next h1
  obtain ⟨hcfg, htent, hpub⟩ := performAll_keeps_leds (by exact hops) hrun
  have flip : newPub s.cfg.cfg w1 s.ledTent s.ledPub = s.ledPub := by rw [hsettled, newPub_settled]
  replace hpub : t.ledPub = s.ledPub := hpub.trans flip
  replace hcfg : t.cfg = s.cfg := hcfg
  have revert : newPub t.cfg.cfg w2 t.ledTent t.ledPub = s.ledPub := by rw [hcfg, hpub, newPub_same _ hback]
  have settled : newTent t.cfg.cfg w2 t.ledTent t.ledPub = s.ledTent :=
    bits5_ext fun k => by rw [newTent_bit, hcfg, hback, hsettled]
  obtain rfl := leddec_next h2
  refine ⟨flip, ?_, revert, settled, ?_⟩
  · change Answer.leddec (eventBits s.ledPub _) = _
    rw [flip, eventBits_self]
  · change Answer.leddec (eventBits t.ledPub _) = _
    rw [revert, hpub, eventBits_self]

/-! ### DECODE and GETDIG -/

/-- The kind code of a digit word (R77). -/
theorem digit_code (p : BitVec 2) : (1#1 ++ p : BitVec 3) = BitVec.ofNat 3 (4 + p.toNat) := by
  revert p; decide

/-- Settles O53: the four kinds of `route_cases`. -/
theorem decodeRoutes : Obligations.DecodeRoutes := by
  intro s w hDec
  have routed : exec (.decode w) s = .next (route w s) := withDecode_on _ hDec
  rw [routed]
  obtain ⟨hk, e⟩ | ⟨hk, e⟩ | ⟨p, hk, e⟩ | ⟨hk, e⟩ := route_cases w s <;> rw [hk, e]
  · exact ⟨_, _, _, withDecode_on _ hDec, rfl, by rw [digit_code]; rfl⟩
  · exact ⟨_, _, exec_leddec_on w hDec, rfl, rfl⟩

/-- A glyph code fits the four bits of a slot (R36). -/
theorem glyphBits_toNat (g : Glyph) : (glyphBits g).toNat = g.val := by
  rw [glyphBits, BitVec.toNat_ofNat, Nat.mod_eq_of_lt (by omega)]

/-- Settles O54. -/
theorem getdigWord : Obligations.GetdigWord := by
  refine fun s hDec => ⟨digitsWord s.digit, withDecode_on _ hDec, ?_⟩
  simp only [digitsWord, toNat_append_eq_add, glyphBits_toNat]
  omega

/-! ### The error conditions -/

/-- Settles O60: each condition by the statement of its operation. -/
theorem errorConditionsAbsorbed : Obligations.ErrorConditionsAbsorbed := by
  refine fun s => ⟨fun hirq hcnt => ?short, fun hirq hcnt hfull => ?overflow, fun hempty => ?empty,
    fun code n hbusy => (btnwAcceptsOrRefuses s code n).1 ((busy_iff s).1 hbusy), fun w hDec hk => ?unknown,
    fun p w hDec hmiss => segdecMiss s p w hDec fun g => (hmiss g).symm, fun w hDec => ?leds⟩
  case short =>
    refine ⟨_, exec_latch_latched hirq, ?_⟩
    simp only [latched_eq, hcnt, if_false, false_and, and_self]
  case overflow =>
    refine ⟨_, exec_latch_latched hirq, ?_⟩
    rw [queue_latched _ _ _ _ hfull.le, if_pos hcnt, pushQueue_full _ _ hfull]
  case empty => exact (popRefinesQueue s).1 (List.length_eq_zero_iff.1 ((queue_length s).trans hempty))
  case unknown => rw [exec_decode, withDecode_on _ hDec, route_unknown hk]
  case leds =>
    refine ⟨_, exec_leddec_on w hDec, fun k hdiffer => ⟨?_, newTent_bit ..⟩⟩
    exact (newPub_bit ..).trans (if_neg hdiffer)

end Sys2Proof.Machine
